-- ==== Sys2Proof/Word.lean ====
section
/-! DEFINITION. The machine's two word types and their plainest arithmetic (spec/00_scope.md R7). -/

namespace Sys2Proof

/-- A byte: a general register, a memory cell, a timer, an immediate `kk` (R20, R31, R25, R73). -/
abbrev Byte := BitVec 8

/-- A 16-bit word: an instruction word, `pc`, `I`, a stack entry (R70, R23, R22, R24). -/
abbrev Word := BitVec 16

/-- A general register's index, `0..15`, and likewise a key's index (R20, R26). -/
abbrev Reg := Fin 16

/-- `hi ++ lo`: the word whose high byte comes first (R53, R70). -/
def Word.ofBytes (hi lo : Byte) : Word := hi ++ lo

/-- `w[15:8]`. -/
def Word.hiByte (w : Word) : Byte := w.extractLsb' 8 8

/-- `w[7:0]`. -/
def Word.loByte (w : Word) : Byte := w.extractLsb' 0 8

end Sys2Proof
end

