-- ==== Sys2Proof/Config.lean ====
section
/-! DEFINITION. The fixed parameters (R5), the open parameters with the values of the model of record (R6), and the
free value that the spec leaves open (R131). -/

namespace Sys2Proof

/-- `SYS_POLICY` (R6, R76, R100): what `0nnn` other than `00E0` and `00EE` does. -/
inductive SysPolicy where
  | illegal
  | nop
  deriving DecidableEq, Repr

/-- `SHIFT_SOURCE` (R6, R128, R130): the register that `8xy6` and `8xyE` shift. -/
inductive ShiftSource where
  | vx
  | vy
  deriving DecidableEq, Repr

/-- The open parameters of R6 that are values of the machine (`RandByte` is `Config.randByte`). -/
structure Params where
  sysPolicy            : SysPolicy
  decodeLax59          : Bool
  jumpIndexedUsesVx    : Bool
  shiftSource          : ShiftSource
  loadStoreIncrementsI : Bool
  fontTable            : Vector Byte 80
  deriving DecidableEq, Repr

namespace Config

/-- `MEM_SIZE` (R5). -/
def memSize : Nat := 4096
/-- `FONT_BASE` (R5). -/
def fontBase : Nat := 0
/-- `FONT_BYTES` (R5). -/
def fontBytes : Nat := 80
/-- `GLYPH_BYTES` (R5). -/
def glyphBytes : Nat := 5
/-- `PROGRAM_BASE` (R5): the load address of the ROM and the reset value of `pc`. -/
def programBase : Nat := 0x200
/-- `ROM_MAX` (R5). -/
def romMax : Nat := 3584
/-- `FLAG_REG` (R5, R21). -/
def flagReg : Reg := 15
/-- `STACK_DEPTH` (R5, R24). -/
def stackDepth : Nat := 16
/-- `FB_WIDTH` (R5, R27). -/
def fbWidth : Nat := 64
/-- `FB_HEIGHT` (R5, R27). -/
def fbHeight : Nat := 32
/-- `SPRITE_WIDTH` (R5). -/
def spriteWidth : Nat := 8
/-- `TIMER_RATIO` (R5, R181). -/
def timerRatio : Nat := 10

/-- Glyphs `0` to `7` of `FONT_TABLE`'s default (R192, decision D15). -/
def fontLow : Vector Byte 40 :=
  #v[0xF0, 0x90, 0x90, 0x90, 0xF0,  0x20, 0x60, 0x20, 0x20, 0x70,
     0xF0, 0x10, 0xF0, 0x80, 0xF0,  0xF0, 0x10, 0xF0, 0x10, 0xF0,
     0x90, 0x90, 0xF0, 0x10, 0x10,  0xF0, 0x80, 0xF0, 0x10, 0xF0,
     0xF0, 0x80, 0xF0, 0x90, 0xF0,  0xF0, 0x10, 0x20, 0x40, 0x40]

/-- Glyphs `8` to `F` of `FONT_TABLE`'s default (R192, decision D15). -/
def fontHigh : Vector Byte 40 :=
  #v[0xF0, 0x90, 0xF0, 0x90, 0xF0,  0xF0, 0x90, 0xF0, 0x10, 0xF0,
     0xF0, 0x90, 0xF0, 0x90, 0x90,  0xE0, 0x90, 0xE0, 0x90, 0xE0,
     0xF0, 0x80, 0x80, 0x80, 0xF0,  0xE0, 0x90, 0x90, 0x90, 0xE0,
     0xF0, 0x80, 0xF0, 0x80, 0xF0,  0xF0, 0x80, 0xF0, 0x80, 0x80]

/-- `FONT_TABLE` at its default (R192, decision D15; the bytes are the spec's own choice). -/
def fontTable : Vector Byte 80 := fontLow ++ fontHigh

/-- The model of record: every open parameter at its default (R6, decisions D3 to D7 and D15). -/
def record : Params where
  sysPolicy            := .illegal
  decodeLax59          := false
  jumpIndexedUsesVx    := false
  shiftSource          := .vx
  loadStoreIncrementsI := false
  fontTable            := fontTable

/-- FREE VALUE (log 1). `RandByte()` of the `k`-th execution of `Cxkk` (R131, decision D16): any byte may come. -/
opaque randByte : Nat → Byte

end Config

end Sys2Proof
end

