-- ==== Sys2Proof/Syntax.lean ====
section
/-! DEFINITION. The 35 instructions of spec/30_encoding.md R74, one constructor per row of spec/opcode_table.json. -/

namespace Sys2Proof

/-- One constructor per row of R74. `x`, `y` are register indices, `n` a sprite height, `kk` a byte immediate and
`nnn` a 12-bit address (R71, R73). -/
inductive Instr where
  /-- `00E0` (R140). -/
  | cls
  /-- `00EE` (R101). -/
  | ret
  /-- `0nnn`, not `00E0` or `00EE` (R100). -/
  | sys (nnn : BitVec 12)
  /-- `1nnn` (R102). -/
  | jp (nnn : BitVec 12)
  /-- `2nnn` (R103). -/
  | call (nnn : BitVec 12)
  /-- `3xkk` (R104). -/
  | seImm (x : Reg) (kk : Byte)
  /-- `4xkk` (R105). -/
  | sneImm (x : Reg) (kk : Byte)
  /-- `5xy0` (R106). -/
  | seReg (x y : Reg)
  /-- `6xkk` (R120). -/
  | ldImm (x : Reg) (kk : Byte)
  /-- `7xkk` (R121). -/
  | addImm (x : Reg) (kk : Byte)
  /-- `8xy0` (R122). -/
  | ldReg (x y : Reg)
  /-- `8xy1` (R123). -/
  | orReg (x y : Reg)
  /-- `8xy2` (R124). -/
  | andReg (x y : Reg)
  /-- `8xy3` (R125). -/
  | xorReg (x y : Reg)
  /-- `8xy4` (R126). -/
  | addReg (x y : Reg)
  /-- `8xy5` (R127). -/
  | subReg (x y : Reg)
  /-- `8xy6` (R128). -/
  | shr (x y : Reg)
  /-- `8xy7` (R129). -/
  | subn (x y : Reg)
  /-- `8xyE` (R130). -/
  | shl (x y : Reg)
  /-- `9xy0` (R107). -/
  | sneReg (x y : Reg)
  /-- `Annn` (R160). -/
  | ldI (nnn : BitVec 12)
  /-- `Bnnn` (R108). -/
  | jpV0 (nnn : BitVec 12)
  /-- `Cxkk` (R131). -/
  | rnd (x : Reg) (kk : Byte)
  /-- `Dxyn` (R141). -/
  | drw (x y : Reg) (n : Fin 16)
  /-- `Ex9E` (R150). -/
  | skp (x : Reg)
  /-- `ExA1` (R151). -/
  | sknp (x : Reg)
  /-- `Fx07` (R153). -/
  | ldVxDt (x : Reg)
  /-- `Fx0A` (R152). -/
  | ldVxK (x : Reg)
  /-- `Fx15` (R154). -/
  | ldDtVx (x : Reg)
  /-- `Fx18` (R155). -/
  | ldStVx (x : Reg)
  /-- `Fx1E` (R161). -/
  | addI (x : Reg)
  /-- `Fx29` (R162). -/
  | ldF (x : Reg)
  /-- `Fx33` (R163). -/
  | ldB (x : Reg)
  /-- `Fx55` (R164). -/
  | ldMemVx (x : Reg)
  /-- `Fx65` (R165). -/
  | ldVxMem (x : Reg)
  deriving DecidableEq, Repr

/-- The instruction's number in the table of R74. -/
def Instr.number : Instr → Nat
  | .sys _ => 1
  | .cls => 2
  | .ret => 3
  | .jp _ => 4
  | .call _ => 5
  | .seImm _ _ => 6
  | .sneImm _ _ => 7
  | .seReg _ _ => 8
  | .ldImm _ _ => 9
  | .addImm _ _ => 10
  | .ldReg _ _ => 11
  | .orReg _ _ => 12
  | .andReg _ _ => 13
  | .xorReg _ _ => 14
  | .addReg _ _ => 15
  | .subReg _ _ => 16
  | .shr _ _ => 17
  | .subn _ _ => 18
  | .shl _ _ => 19
  | .sneReg _ _ => 20
  | .ldI _ => 21
  | .jpV0 _ => 22
  | .rnd _ _ => 23
  | .drw _ _ _ => 24
  | .skp _ => 25
  | .sknp _ => 26
  | .ldVxDt _ => 27
  | .ldVxK _ => 28
  | .ldDtVx _ => 29
  | .ldStVx _ => 30
  | .addI _ => 31
  | .ldF _ => 32
  | .ldB _ => 33
  | .ldMemVx _ => 34
  | .ldVxMem _ => 35

end Sys2Proof
end

