-- ==== Sys2Proof/Decode.lean ====
section
/-! DEFINITION. Decode (R70 to R81), total on every word and every byte sequence, and the encoder (R83), written from
the formats of R72 and the patterns of R74. -/

namespace Sys2Proof

/-- Why the decoder gives no instruction. -/
inductive DecodeReject where
  /-- The word is none of the 35 variants (R75, R78). -/
  | illegalInstruction (op : Word)
  /-- Fewer than the two bytes every instruction has (R70). -/
  | truncated
  deriving DecidableEq, Repr

/-! ### Fields (R71) -/

/-- `t = op[15:12]`. -/
def fieldT (op : Word) : Fin 16 := (op.extractLsb' 12 4).toFin
/-- `x = op[11:8]`. -/
def fieldX (op : Word) : Reg := (op.extractLsb' 8 4).toFin
/-- `y = op[7:4]`. -/
def fieldY (op : Word) : Reg := (op.extractLsb' 4 4).toFin
/-- `n = op[3:0]`. -/
def fieldN (op : Word) : Fin 16 := (op.extractLsb' 0 4).toFin
/-- `kk = op[7:0]`. -/
def fieldKK (op : Word) : Byte := op.extractLsb' 0 8
/-- `nnn = op[11:0]`. -/
def fieldNNN (op : Word) : BitVec 12 := op.extractLsb' 0 12

/-! ### Decode (R75) -/

/-- Family `0`, discriminated by the whole word (R75, R76). -/
def decodeFamily0 (op : Word) : Instr :=
  if op = 0x00E0 then .cls else if op = 0x00EE then .ret else .sys (fieldNNN op)

/-- Family `8`, discriminated by the low nibble (R75, R132). -/
def decodeFamily8 (op : Word) : Except DecodeReject Instr :=
  match (fieldN op).val with
  | 0x0 => .ok (.ldReg (fieldX op) (fieldY op))
  | 0x1 => .ok (.orReg (fieldX op) (fieldY op))
  | 0x2 => .ok (.andReg (fieldX op) (fieldY op))
  | 0x3 => .ok (.xorReg (fieldX op) (fieldY op))
  | 0x4 => .ok (.addReg (fieldX op) (fieldY op))
  | 0x5 => .ok (.subReg (fieldX op) (fieldY op))
  | 0x6 => .ok (.shr (fieldX op) (fieldY op))
  | 0x7 => .ok (.subn (fieldX op) (fieldY op))
  | 0xE => .ok (.shl (fieldX op) (fieldY op))
  | _ => .error (.illegalInstruction op)

/-- Family `E`, discriminated by the low byte (R75). -/
def decodeFamilyE (op : Word) : Except DecodeReject Instr :=
  match (fieldKK op).toNat with
  | 0x9E => .ok (.skp (fieldX op))
  | 0xA1 => .ok (.sknp (fieldX op))
  | _ => .error (.illegalInstruction op)

/-- Family `F`, discriminated by the low byte (R75). -/
def decodeFamilyF (op : Word) : Except DecodeReject Instr :=
  match (fieldKK op).toNat with
  | 0x07 => .ok (.ldVxDt (fieldX op))
  | 0x0A => .ok (.ldVxK (fieldX op))
  | 0x15 => .ok (.ldDtVx (fieldX op))
  | 0x18 => .ok (.ldStVx (fieldX op))
  | 0x1E => .ok (.addI (fieldX op))
  | 0x29 => .ok (.ldF (fieldX op))
  | 0x33 => .ok (.ldB (fieldX op))
  | 0x55 => .ok (.ldMemVx (fieldX op))
  | 0x65 => .ok (.ldVxMem (fieldX op))
  | _ => .error (.illegalInstruction op)

/-- Families `5` and `9`: the low nibble must be 0, unless `DECODE_LAX_5_9` ignores it (R77). -/
def decodeFamily59 (lax : Bool) (op : Word) (i : Instr) : Except DecodeReject Instr :=
  if lax || fieldN op == 0 then .ok i else .error (.illegalInstruction op)

/-- `Decode(op)` of R75, for either value of `DECODE_LAX_5_9`. -/
def decodeWordWith (lax : Bool) (op : Word) : Except DecodeReject Instr :=
  match (fieldT op).val with
  | 0x0 => .ok (decodeFamily0 op)
  | 0x1 => .ok (.jp (fieldNNN op))
  | 0x2 => .ok (.call (fieldNNN op))
  | 0x3 => .ok (.seImm (fieldX op) (fieldKK op))
  | 0x4 => .ok (.sneImm (fieldX op) (fieldKK op))
  | 0x5 => decodeFamily59 lax op (.seReg (fieldX op) (fieldY op))
  | 0x6 => .ok (.ldImm (fieldX op) (fieldKK op))
  | 0x7 => .ok (.addImm (fieldX op) (fieldKK op))
  | 0x8 => decodeFamily8 op
  | 0x9 => decodeFamily59 lax op (.sneReg (fieldX op) (fieldY op))
  | 0xA => .ok (.ldI (fieldNNN op))
  | 0xB => .ok (.jpV0 (fieldNNN op))
  | 0xC => .ok (.rnd (fieldX op) (fieldKK op))
  | 0xD => .ok (.drw (fieldX op) (fieldY op) (fieldN op))
  | 0xE => decodeFamilyE op
  | 0xF => decodeFamilyF op
  | _ => .error (.illegalInstruction op)

/-- `Decode(op)` of the model of record (R75, `DECODE_LAX_5_9 = false`). -/
def decodeWord (op : Word) : Except DecodeReject Instr := decodeWordWith Config.record.decodeLax59 op

/-- The instruction at the head of a byte sequence, high byte first, and the bytes after it (R70). -/
def decodeBytes : List Byte → Except DecodeReject (Instr × List Byte)
  | hi :: lo :: rest => (decodeWord (Word.ofBytes hi lo)).map (·, rest)
  | _ => .error .truncated

/-! ### Encode (R72, R74, R83) -/

/-- Format `NNN`: `tttt nnnn nnnn nnnn`. -/
def packNNN (t : BitVec 4) (nnn : BitVec 12) : Word := t ++ nnn

/-- Format `XKK`: `tttt xxxx kkkk kkkk`; also format `X`, whose low byte is fixed. -/
def packXKK (t : BitVec 4) (x : Reg) (kk : Byte) : Word := t ++ (BitVec.ofFin x : BitVec 4) ++ kk

/-- Format `XYN`: `tttt xxxx yyyy nnnn`; also format `XY`, whose low nibble is fixed. -/
def packXYN (t : BitVec 4) (x y : Reg) (n : Fin 16) : Word :=
  t ++ (BitVec.ofFin x : BitVec 4) ++ (BitVec.ofFin y : BitVec 4) ++ (BitVec.ofFin n : BitVec 4)

/-- The word of an instruction (R83): its pattern in R74 with the fields filled in. -/
def encode : Instr → Word
  | .cls => 0x00E0
  | .ret => 0x00EE
  | .sys nnn => packNNN 0x0 nnn
  | .jp nnn => packNNN 0x1 nnn
  | .call nnn => packNNN 0x2 nnn
  | .seImm x kk => packXKK 0x3 x kk
  | .sneImm x kk => packXKK 0x4 x kk
  | .seReg x y => packXYN 0x5 x y 0x0
  | .ldImm x kk => packXKK 0x6 x kk
  | .addImm x kk => packXKK 0x7 x kk
  | .ldReg x y => packXYN 0x8 x y 0x0
  | .orReg x y => packXYN 0x8 x y 0x1
  | .andReg x y => packXYN 0x8 x y 0x2
  | .xorReg x y => packXYN 0x8 x y 0x3
  | .addReg x y => packXYN 0x8 x y 0x4
  | .subReg x y => packXYN 0x8 x y 0x5
  | .shr x y => packXYN 0x8 x y 0x6
  | .subn x y => packXYN 0x8 x y 0x7
  | .shl x y => packXYN 0x8 x y 0xE
  | .sneReg x y => packXYN 0x9 x y 0x0
  | .ldI nnn => packNNN 0xA nnn
  | .jpV0 nnn => packNNN 0xB nnn
  | .rnd x kk => packXKK 0xC x kk
  | .drw x y n => packXYN 0xD x y n
  | .skp x => packXKK 0xE x 0x9E
  | .sknp x => packXKK 0xE x 0xA1
  | .ldVxDt x => packXKK 0xF x 0x07
  | .ldVxK x => packXKK 0xF x 0x0A
  | .ldDtVx x => packXKK 0xF x 0x15
  | .ldStVx x => packXKK 0xF x 0x18
  | .addI x => packXKK 0xF x 0x1E
  | .ldF x => packXKK 0xF x 0x29
  | .ldB x => packXKK 0xF x 0x33
  | .ldMemVx x => packXKK 0xF x 0x55
  | .ldVxMem x => packXKK 0xF x 0x65

/-- The two bytes of an instruction at ascending addresses (R83, R53). -/
def encodeBytes (i : Instr) : List Byte := [(encode i).hiByte, (encode i).loByte]

/-! ### The host's door to the decoder -/

/-- The word that the table's `nbits` bits `w` stand for; bits from `nbits` on are 0 and an instruction has 16 (R70). -/
def tableWord (nbits w : Nat) : Word := BitVec.ofNat 16 (w % 2 ^ nbits)

/-- The instruction the decoder reads from the bytes of the table's word, laid out as memory holds them (R53). -/
def decodeTableWord (nbits w : Nat) : Option Instr :=
  match decodeBytes [(tableWord nbits w).hiByte, (tableWord nbits w).loByte] with
  | .ok (i, _) => some i
  | .error _ => none

/-! ### The opcode table -/

/-- A row of spec/opcode_table.json: the instruction's number in R74, and `mask` and `bits` such that a word selects
the row when `op &&& mask = bits`. -/
structure OpcodeRow where
  number : Nat
  bits   : Word
  mask   : Word
  deriving DecidableEq, Repr

/-- Rows of the families `0` to `7`, in the table's first-match order: `CLS` and `RET` before `SYS` (R74). -/
def opcodeRows0 : List OpcodeRow :=
  [⟨2, 0x00E0, 0xFFFF⟩, ⟨3, 0x00EE, 0xFFFF⟩, ⟨1, 0x0000, 0xF000⟩, ⟨4, 0x1000, 0xF000⟩, ⟨5, 0x2000, 0xF000⟩,
   ⟨6, 0x3000, 0xF000⟩, ⟨7, 0x4000, 0xF000⟩, ⟨8, 0x5000, 0xF00F⟩, ⟨9, 0x6000, 0xF000⟩, ⟨10, 0x7000, 0xF000⟩]

/-- Rows of family `8`. -/
def opcodeRows8 : List OpcodeRow :=
  [⟨11, 0x8000, 0xF00F⟩, ⟨12, 0x8001, 0xF00F⟩, ⟨13, 0x8002, 0xF00F⟩, ⟨14, 0x8003, 0xF00F⟩, ⟨15, 0x8004, 0xF00F⟩,
   ⟨16, 0x8005, 0xF00F⟩, ⟨17, 0x8006, 0xF00F⟩, ⟨18, 0x8007, 0xF00F⟩, ⟨19, 0x800E, 0xF00F⟩]

/-- Rows of the families `9` to `F`. -/
def opcodeRows9 : List OpcodeRow :=
  [⟨20, 0x9000, 0xF00F⟩, ⟨21, 0xA000, 0xF000⟩, ⟨22, 0xB000, 0xF000⟩, ⟨23, 0xC000, 0xF000⟩, ⟨24, 0xD000, 0xF000⟩,
   ⟨25, 0xE09E, 0xF0FF⟩, ⟨26, 0xE0A1, 0xF0FF⟩, ⟨27, 0xF007, 0xF0FF⟩, ⟨28, 0xF00A, 0xF0FF⟩, ⟨29, 0xF015, 0xF0FF⟩,
   ⟨30, 0xF018, 0xF0FF⟩, ⟨31, 0xF01E, 0xF0FF⟩, ⟨32, 0xF029, 0xF0FF⟩, ⟨33, 0xF033, 0xF0FF⟩, ⟨34, 0xF055, 0xF0FF⟩,
   ⟨35, 0xF065, 0xF0FF⟩]

/-- spec/opcode_table.json, its `match` and `mask` columns. -/
def opcodeTable : List OpcodeRow := opcodeRows0 ++ opcodeRows8 ++ opcodeRows9

/-- `op & mask = match` (R74). -/
def OpcodeRow.selects (r : OpcodeRow) (op : Word) : Bool := op &&& r.mask == r.bits

end Sys2Proof
end

