-- ==== Sys2Proof/Machine/State.lean ====
section
/-! DEFINITION. The machine's state as plain data (spec/10_state.md), the exceptions (R171), and the reasons a step
can stop. -/

namespace Sys2Proof.Machine

/-- The cause recorded in a `RomLoadError` (R171, R193). -/
inductive RomCause where
  /-- The ROM image has `len > 3584` bytes; raised by `Reset(rom)` (R190). -/
  | romTooLarge (len : Nat)
  /-- A file could not be read; the host's affair, which never reaches the block (R193). -/
  | inputOutput
  deriving DecidableEq, Repr

/-- The exceptions of R171 with the `info` each records. -/
inductive Exc where
  | romLoadError (cause : RomCause)
  | illegalInstruction (op : Word)
  | stackOverflow
  | stackUnderflow
  /-- Unreachable; kept so that the type matches the taxonomy (R176). -/
  | invalidRegisterIndex (index : Nat)
  | invalidKeyIndex (k : Byte)
  /-- `addr` is the lowest out-of-range address, a natural number (R63, R64, R178). -/
  | memoryOutOfRange (addr : Nat)
  | invalidFontDigit (d : Byte)
  deriving DecidableEq, Repr

/-- Run status (R30). -/
inductive Status where
  | running
  | faulted (e : Exc)
  deriving DecidableEq, Repr

/-- Memory as the list of the cells that differ from what an unlisted address reads as (`Memory.background` in
Machine/Ops.lean), addresses strictly rising; its canonical form is `Memory.wf` there. -/
abbrev Memory := List Host.Cell

/-- The framebuffer (R27): one word of 64 pixels per row, bit `x` of row `y` being pixel `(x, y)`, 1 for White
(decision D20). -/
abbrev Framebuffer := Vector (BitVec 64) 32

/-- Every piece of state of spec/10_state.md, then two fields of the model's own. -/
structure State where
  /-- General registers `V[0]` to `V[15]`; `V[15]` doubles as the flag register (R20, R21). -/
  V         : Vector Byte 16
  /-- Index register (R22). -/
  I         : Word
  /-- Program counter: the address of the instruction being executed (R23). -/
  pc        : Word
  /-- Stack pointer, `0..16` (R24). -/
  sp        : Fin 17
  /-- Call stack entries (R24). -/
  stack     : Vector Word 16
  /-- Delay timer (R25). -/
  DT        : Byte
  /-- Sound timer (R25). -/
  ST        : Byte
  /-- Keypad latch: bit `k` is `key[k]`, 1 for Pressed (R26, decision D20). -/
  key       : BitVec 16
  /-- Framebuffer (R27). -/
  fb        : Framebuffer
  /-- Redraw flag (R28). -/
  redraw    : Bool
  /-- Timer divider, `0..9` (R29). -/
  div       : Fin 10
  /-- Run status (R30). -/
  status    : Status
  /-- Memory (R31). -/
  mem       : Memory
  /-- The output `st_expired` of the last step (R181, R184); the spec lets a model keep it with the step's result. -/
  stExpired : Bool
  /-- THE MODEL'S OWN: how many random bytes have been drawn, the argument of `Config.randByte` (log 1). -/
  draws     : Nat
  deriving DecidableEq, Repr

/-- The state right after `Reset` (R33), no ROM loaded. -/
def State.reset : State where
  V         := Vector.replicate 16 0
  I         := 0
  pc        := 0x200
  sp        := 0
  stack     := Vector.replicate 16 0
  DT        := 0
  ST        := 0
  key       := 0
  fb        := Vector.replicate 32 0
  redraw    := false
  div       := 0
  status    := .running
  mem       := []
  stExpired := false
  draws     := 0

/-- Why a step stops. -/
inductive Fault where
  /-- Raised by `step` alone, when the status is already `Faulted(e)`: "disables all further steps" (R172, R170).
  SAFE: the spec gives a faulted block no step. -/
  | notRunning (e : Exc)
  deriving DecidableEq, Repr

/-- Why a step is refused. -/
inductive Refusal where
  /-- Raised by an arm of `exec` whose instruction has no meaning yet; no arm does. SAFE: nothing runs. -/
  | notModelled (mnemonic : String)
  deriving DecidableEq, Repr

/-- What a step or an instruction's meaning answers. -/
abbrev Result := Host.Outcome State Fault Refusal

end Sys2Proof.Machine
end

