-- ==== Sys2Proof/Machine/Ops.lean ====
section
/-! DEFINITION. The named operations over registers, memory, stack, framebuffer and status, and taking an exception,
that the meanings are built from. -/

namespace Sys2Proof.Machine

/-! ### Memory (spec/20_memory.md) -/

namespace Memory

/-- What an address that `Memory` does not list reads as: the reset contents of the model of record with no ROM, the
font table at `0x000..0x04F` and zero elsewhere (R33, R51). -/
def background (a : Nat) : Byte := if h : a < 80 then Config.fontTable[a] else 0

/-- The canonical form from address `lo` up: addresses strictly rising and inside the memory, and no cell equal to
what its address would read as unlisted. -/
def wfFrom (lo : Nat) : Memory → Bool
  | [] => true
  | (a, v) :: rest => lo ≤ a && a < Config.memSize && v != background a && wfFrom (a + 1) rest

/-- The canonical form of a memory. -/
def wf (m : Memory) : Bool := wfFrom 0 m

/-- `mem[a]` (R52). -/
def read : Memory → Nat → Byte
  | [], a => background a
  | (b, w) :: rest, a => if a = b then w else read rest a

/-- List `a` with the value `v`, or unlist it where `v` is what it would read as. -/
def put : Memory → Nat → Byte → Memory
  | [], a, v => if v = background a then [] else [(a, v)]
  | (b, w) :: rest, a, v =>
    if a < b then (if v = background a then (b, w) :: rest else (a, v) :: (b, w) :: rest)
    else if a = b then (if v = background a then rest else (a, v) :: rest)
    else (b, w) :: put rest a v

/-- `mem[a] <- v` (R52); an address that does not exist is not written. -/
def write (m : Memory) (a : Nat) (v : Byte) : Memory := if a < Config.memSize then m.put a v else m

/-- The bytes at `base`, `base + 1`, …, `base + count - 1`. -/
def readBytes (m : Memory) (base count : Nat) : List Byte := (List.range count).map fun k => m.read (base + k)

/-- Store a sequence of bytes at ascending addresses from `base` (R53). -/
def writeBytes (m : Memory) (base : Nat) : List Byte → Memory
  | [] => m
  | b :: bs => writeBytes (m.write base b) (base + 1) bs

/-- The big-endian word at `a` and `a + 1` (R53). -/
def readWord (m : Memory) (a : Nat) : Word := Word.ofBytes (m.read a) (m.read (a + 1))

/-- The big-endian word `w` stored at `a` and `a + 1` (R53). -/
def writeWord (m : Memory) (a : Nat) (w : Word) : Memory := m.writeBytes a [w.hiByte, w.loByte]

end Memory

/-- The pre-check of an access to `count` bytes from `base` (R52, R63, R64): the exception it raises, if any. The
addresses are natural numbers and never wrap. -/
def outOfRange (base count : Nat) : Option Exc :=
  if 0 < count ∧ base + count - 1 > 0xFFF then some (.memoryOutOfRange (max base 0x1000)) else none

/-- The exception's code (R171, decision D25: the numbers are the spec's own, for a model's enumeration). -/
def Exc.code : Exc → Nat
  | .romLoadError _ => 0
  | .illegalInstruction _ => 1
  | .stackOverflow => 2
  | .stackUnderflow => 3
  | .invalidRegisterIndex _ => 4
  | .invalidKeyIndex _ => 5
  | .memoryOutOfRange _ => 6
  | .invalidFontDigit _ => 7

namespace State

/-! ### Registers (spec/10_state.md) -/

/-- `V[x]` (R20). -/
def readV (s : State) (x : Reg) : Byte := s.V[x]

/-- `V[x] <- v` (R20). -/
def writeV (s : State) (x : Reg) (v : Byte) : State := { s with V := s.V.set x v }

/-- `V[15] <- 1` or `V[15] <- 0`, a full byte write (R134). -/
def setFlag (s : State) (flag : Bool) : State := s.writeV Config.flagReg (if flag then 1 else 0)

/-- `I <- a` (R22). -/
def setI (s : State) (a : Word) : State := { s with I := a }

/-- `pc <- target` (R23). -/
def setPc (s : State) (target : Word) : State := { s with pc := target }

/-- `pc <- pc + 2`: the next instruction (R109). -/
def advance (s : State) : State := s.setPc (s.pc + 2)

/-- `pc <- pc + 4` if the condition holds, else `pc <- pc + 2` (R109). -/
def skipIf (s : State) (cond : Bool) : State := s.setPc (if cond then s.pc + 4 else s.pc + 2)

/-- `DT <- v` (R25). -/
def setDT (s : State) (v : Byte) : State := { s with DT := v }

/-- `ST <- v` (R25). -/
def setST (s : State) (v : Byte) : State := { s with ST := v }

/-- `key[k]` (R26). -/
def readKey (s : State) (k : Reg) : Bool := s.key.getLsbD k

/-- The least `k` with `key[k] = 1`, the cells scanned in ascending order (R152). -/
def leastPressed (s : State) : Option Reg := (List.finRange 16).find? fun k => s.readKey k

/-- The memory with the bytes `bs` stored from the effective address `I` up (R63). -/
def storeAtI (s : State) (bs : List Byte) : State := { s with mem := s.mem.writeBytes s.I.toNat bs }

/-- The register file with `V[i]` read from address `base + i` for `i` in `0 .. x` (R165). -/
def loadedV (s : State) (base : Nat) (x : Reg) : Vector Byte 16 :=
  (List.finRange 16).foldl (fun V i => if i ≤ x then V.set i (s.mem.read (base + i)) else V) s.V

/-- `V[i] <- mem[I + i]` for `i` in `0 .. x` (R165). -/
def loadFromI (s : State) (x : Reg) : State := { s with V := s.loadedV s.I.toNat x }

/-- A fresh `RandByte()` has been drawn (R131, log 1). -/
def countDraw (s : State) : State := { s with draws := s.draws + 1 }

/-! ### Call stack (R24) -/

/-- `stack[sp] <- pc; sp <- sp + 1`, for a stack that is not full. -/
def push (s : State) (h : s.sp.val < 16) : State :=
  { s with stack := s.stack.set s.sp.val s.pc, sp := ⟨s.sp.val + 1, by omega⟩ }

/-- `stack[sp - 1]`, the entry a pop returns, for a stack that is not empty. -/
def top (s : State) (h : 0 < s.sp.val) : Word := s.stack[s.sp.val - 1]'(by omega)

/-- `sp <- sp - 1`; the entry keeps its value (R24, decision D22). -/
def pop (s : State) : State := { s with sp := ⟨s.sp.val - 1, by omega⟩ }

/-! ### Framebuffer (R27, R28) -/

/-- The framebuffer replaced, and the redraw flag set with it (R28, R140, R141). -/
def paint (s : State) (fb : Framebuffer) : State := { s with fb := fb, redraw := true }

/-! ### Taking an exception (R172) -/

/-- `fault E(info)` of R170: the status becomes `Faulted(e)` and the rest of spec/10_state.md is as it was, `pc`
included; the step gives no new `st_expired`, taken as 0 (R184). There is no return from it (R189). -/
def raise (s : State) (e : Exc) : State := { s with status := .faulted e, stExpired := false }

end State

/-- End an instruction: raise its own check's exception in the state it began in, or complete with the state
`done`. Every check comes before the first write (R172). -/
def complete (check : Option Exc) (s done : State) : Result :=
  match check with
  | some e => .next (s.raise e)
  | none => .next done

/-! ### Pixels -/

/-- `fb[x, y]` (R27). -/
def pixel (fb : Framebuffer) (x : Fin 64) (y : Fin 32) : Bool := fb[y].getLsbD x

/-- `fb[x, y] <- fb[x, y] xor 1`. -/
def togglePixel (fb : Framebuffer) (x : Fin 64) (y : Fin 32) : Framebuffer :=
  fb.set y (fb[y] ^^^ BitVec.twoPow 64 x)

/-- `n mod 64`: a column, wrapped (R141, R142). -/
def column (n : Nat) : Fin 64 := ⟨n % 64, Nat.mod_lt _ (by decide)⟩

/-- `n mod 32`: a row, wrapped (R141, R142). -/
def row (n : Nat) : Fin 32 := ⟨n % 32, Nat.mod_lt _ (by decide)⟩

/-- One set sprite bit (R141): toggle the pixel, and note a White pixel turned Black in `hit`. -/
def drawBit (acc : Framebuffer × Bool) (x : Fin 64) (y : Fin 32) : Framebuffer × Bool :=
  (togglePixel acc.1 x y, acc.2 || pixel acc.1 x y)

/-- The bits of one sprite row, most significant first: `c = 0` is bit 7 (R141). -/
def drawRow (acc : Framebuffer × Bool) (vx py : Nat) (b : Byte) : Framebuffer × Bool :=
  (List.range 8).foldl (fun acc c => if b.getLsbD (7 - c) then drawBit acc (column (vx + c)) (row py) else acc) acc

/-- The rows of a sprite, top to bottom, the first at row `py` (R141). -/
def drawRows (acc : Framebuffer × Bool) (vx py : Nat) : List Byte → Framebuffer × Bool
  | [] => acc
  | b :: bs => drawRows (drawRow acc vx py b) vx (py + 1) bs

/-- The framebuffer with a sprite drawn at `(vx, vy)`, and whether a White pixel turned Black (R141). -/
def drawSprite (fb : Framebuffer) (vx vy : Byte) (sprite : List Byte) : Framebuffer × Bool :=
  drawRows (fb, false) vx.toNat vy.toNat sprite

end Sys2Proof.Machine
end

