-- ==== Sys2Proof/Machine/Cycle.lean ====
section
/-! DEFINITION. What surrounds an instruction in a step: the fetch, the tick of the timers, and the order of the five
points of R170. -/

namespace Sys2Proof.Machine

/-- The fetch of points 1 and 2 of R170: the big-endian word at `pc`, bounds-checked as a whole (R52, R53). -/
def fetch (s : State) : Except Exc Word :=
  if s.pc.toNat > 0xFFE then .error (.memoryOutOfRange s.pc.toNat) else .ok (s.mem.readWord s.pc.toNat)

/-- One decrement of a timer, floor 0 (R180). -/
def decTimer (t : Byte) : Byte := if t = 0 then 0 else t - 1

/-- `Tick()`, the divide-by-10 (R181). -/
def tick (s : State) : State :=
  if s.div.val + 1 = Config.timerRatio then
    { s with div := 0, DT := decTimer s.DT, ST := decTimer s.ST, stExpired := s.ST == 1 }
  else
    { s with div := ⟨(s.div.val + 1) % 10, Nat.mod_lt _ (by decide)⟩, stExpired := false }

/-- Point 5 of R170: the tick follows a step that did not fault, and only such a step (R172, R181). -/
def finish : Result → Result
  | .next t => if t.status = .running then .next (tick t) else .next t
  | .fault r => .fault r
  | .refused r => .refused r

/-- `Step` of R170 for a decoder and an execute function. It is enabled only when `status = Running`. -/
def cycle (dec : Word → Except DecodeReject Instr) (ex : Instr → State → Result) (s : State) : Result :=
  match s.status with
  | .faulted e => .fault (.notRunning e)
  | .running =>
    match fetch s with
    | .error e => .next (s.raise e)
    | .ok op =>
      match dec op with
      | .error _ => .next (s.raise (.illegalInstruction op))
      | .ok i => finish (ex i s)

end Sys2Proof.Machine
end

