-- ==== Sys2Proof/Machine/Flags.lean ====
section
/-! DEFINITION. The arithmetic of spec/41_alu.md: each result with the flag that goes with it (R133, R134). -/

namespace Sys2Proof.Machine

/-- A result byte and the flag that the instruction writes to `V[15]` after it (R135). -/
structure FlaggedByte where
  value : Byte
  flag  : Bool
  deriving DecidableEq, Repr

/-- `a + b`: the sum modulo 256, flag 1 iff `a + b > 255` (R126, R134). -/
def addFlagged (a b : Byte) : FlaggedByte where
  value := BitVec.ofNat 8 (a.toNat + b.toNat)
  flag  := a.toNat + b.toNat > 255

/-- `Sub(first, second)`: the difference modulo 256, flag 1 iff no borrow occurred (R127, R129, R134). -/
def subFlagged (first second : Byte) : FlaggedByte where
  value := first - second
  flag  := first.toNat ≥ second.toNat

/-- Shift right by one: a zero enters at bit 7, the flag is bit 0 (R128). -/
def shrFlagged (a : Byte) : FlaggedByte where
  value := a >>> 1
  flag  := a.getLsbD 0

/-- Shift left by one: a zero enters at bit 0, the flag is bit 7 (R130). -/
def shlFlagged (a : Byte) : FlaggedByte where
  value := a <<< 1
  flag  := a.getLsbD 7

end Sys2Proof.Machine
end

