-- ==== Sys2Proof/Machine/Operands.lean ====
section
/-! DEFINITION. The operand forms: register operands and the destinations with their flag (R72), zero-extended
immediates (R73), the register operands that a parameter of R6 chooses, and the operands whose value is checked. -/

namespace Sys2Proof.Machine

/-- `zext_16(nnn)`: an address immediate as a word (R73). -/
def immAddr (nnn : BitVec 12) : Word := nnn.setWidth 16

/-- `zext_16(b)`: a register byte added to a 16-bit register (R161, R108). -/
def byteAsWord (b : Byte) : Word := b.setWidth 16

/-- The register that `8xy6` and `8xyE` shift (R128, R130, decision D6). -/
def shiftOperand (p : Params) (x y : Reg) : Reg :=
  match p.shiftSource with
  | .vx => x
  | .vy => y

/-- The register that `Bnnn` adds: `V[0]`, or `V[x]` with `x` the top digit of `nnn` (R108, decision D5). -/
def jumpOperand (p : Params) (nnn : BitVec 12) : Reg :=
  if p.jumpIndexedUsesVx then (nnn.extractLsb' 8 4).toFin else 0

/-- `V[x]` as a key index, range-checked as a whole byte (R150, R151, R177). -/
def keyIndex (k : Byte) : Except Exc Reg :=
  if h : k.toNat < 16 then .ok ⟨k.toNat, h⟩ else .error (.invalidKeyIndex k)

/-- `V[x]` as a font digit, range-checked as a whole byte (R162, R179). -/
def fontDigit (d : Byte) : Except Exc Reg :=
  if h : d.toNat < 16 then .ok ⟨d.toNat, h⟩ else .error (.invalidFontDigit d)

/-- The address of digit `d`'s glyph: `FONT_BASE + GLYPH_BYTES * d` (R162). -/
def glyphAddr (d : Reg) : Word := BitVec.ofNat 16 (Config.fontBase + Config.glyphBytes * d.val)

/-- The decimal digits of `v`: hundreds, tens, ones (R163). -/
def bcdDigits (v : Byte) : List Byte :=
  [BitVec.ofNat 8 (v.toNat / 100), BitVec.ofNat 8 (v.toNat / 10 % 10), BitVec.ofNat 8 (v.toNat % 10)]

/-- `V[x] <- value` and then `V[15] <- flag` (R135). -/
def State.writeFlagged (s : State) (x : Reg) (r : FlaggedByte) : State := (s.writeV x r.value).setFlag r.flag

/-- `I` after `Fx55` and `Fx65`: as it was, or `I + x + 1` (R164, R165, decision D7). -/
def State.stepI (p : Params) (s : State) (x : Reg) : State :=
  if p.loadStoreIncrementsI then s.setI (s.I + BitVec.ofNat 16 (x.val + 1)) else s

end Sys2Proof.Machine
end

