-- ==== Sys2Proof/Machine/Alu.lean ====
section
/-! DEFINITION. Register moves, arithmetic, logic, shifts, random (spec/41_alu.md). -/

namespace Sys2Proof.Machine

/-- `LD Vx, kk`, `6xkk` (R120). -/
def execLdImm (x : Reg) (kk : Byte) (s : State) : Result := .next (s.writeV x kk).advance

/-- `ADD Vx, kk`, `7xkk` (R121): no flag. -/
def execAddImm (x : Reg) (kk : Byte) (s : State) : Result :=
  .next (s.writeV x (addFlagged (s.readV x) kk).value).advance

/-- `LD Vx, Vy`, `8xy0` (R122). -/
def execLdReg (x y : Reg) (s : State) : Result := .next (s.writeV x (s.readV y)).advance

/-- `OR Vx, Vy`, `8xy1` (R123). -/
def execOrReg (x y : Reg) (s : State) : Result := .next (s.writeV x (s.readV x ||| s.readV y)).advance

/-- `AND Vx, Vy`, `8xy2` (R124). -/
def execAndReg (x y : Reg) (s : State) : Result := .next (s.writeV x (s.readV x &&& s.readV y)).advance

/-- `XOR Vx, Vy`, `8xy3` (R125). -/
def execXorReg (x y : Reg) (s : State) : Result := .next (s.writeV x (s.readV x ^^^ s.readV y)).advance

/-- `ADD Vx, Vy`, `8xy4` (R126). -/
def execAddReg (x y : Reg) (s : State) : Result :=
  .next (s.writeFlagged x (addFlagged (s.readV x) (s.readV y))).advance

/-- `SUB Vx, Vy`, `8xy5` (R127). -/
def execSubReg (x y : Reg) (s : State) : Result :=
  .next (s.writeFlagged x (subFlagged (s.readV x) (s.readV y))).advance

/-- `SHR Vx, Vy`, `8xy6`, for either value of `SHIFT_SOURCE` (R128). -/
def execShrWith (p : Params) (x y : Reg) (s : State) : Result :=
  .next (s.writeFlagged x (shrFlagged (s.readV (shiftOperand p x y)))).advance

/-- `SHR Vx, Vy`, `8xy6` (R128). -/
def execShr (x y : Reg) (s : State) : Result := execShrWith Config.record x y s

/-- `SUBN Vx, Vy`, `8xy7` (R129): `Sub` with first operand `V[y]`. -/
def execSubn (x y : Reg) (s : State) : Result :=
  .next (s.writeFlagged x (subFlagged (s.readV y) (s.readV x))).advance

/-- `SHL Vx, Vy`, `8xyE`, for either value of `SHIFT_SOURCE` (R130). -/
def execShlWith (p : Params) (x y : Reg) (s : State) : Result :=
  .next (s.writeFlagged x (shlFlagged (s.readV (shiftOperand p x y)))).advance

/-- `SHL Vx, Vy`, `8xyE` (R130). -/
def execShl (x y : Reg) (s : State) : Result := execShlWith Config.record x y s

/-- `RND Vx, kk`, `Cxkk`, with the drawn byte `r` as an argument (R131). -/
def execRndWith (r : Byte) (x : Reg) (kk : Byte) (s : State) : Result :=
  .next (s.countDraw.writeV x (r &&& kk)).advance

/-- `RND Vx, kk`, `Cxkk` (R131): `RandByte()` is a free value, a fresh one at each execution (log 1). -/
def execRnd (x : Reg) (kk : Byte) (s : State) : Result := execRndWith (Config.randByte s.draws) x kk s

end Sys2Proof.Machine
end

