-- ==== Sys2Proof/Machine/Control.lean ====
section
/-! DEFINITION. Control transfer and conditional skips (spec/40_control_flow.md). -/

namespace Sys2Proof.Machine

/-- `SYS nnn` for either value of `SYS_POLICY` (R100, R76): `op` is `0nnn`. -/
def execSysWith (p : Params) (nnn : BitVec 12) (s : State) : Result :=
  match p.sysPolicy with
  | .illegal => complete (some (.illegalInstruction (immAddr nnn))) s s
  | .nop => .next s.advance

/-- `SYS nnn`, `0nnn` (R100). -/
def execSys (nnn : BitVec 12) (s : State) : Result := execSysWith Config.record nnn s

/-- `RET`, `00EE` (R101, decision D2): the popped entry is the call's own address. -/
def execRet (s : State) : Result :=
  if h : 0 < s.sp.val then .next (s.pop.setPc (s.top h + 2)) else complete (some .stackUnderflow) s s

/-- `JP nnn`, `1nnn` (R102). -/
def execJp (nnn : BitVec 12) (s : State) : Result := .next (s.setPc (immAddr nnn))

/-- `CALL nnn`, `2nnn` (R103): the call's own address is pushed. -/
def execCall (nnn : BitVec 12) (s : State) : Result :=
  if h : s.sp.val < 16 then .next ((s.push h).setPc (immAddr nnn)) else complete (some .stackOverflow) s s

/-- `SE Vx, kk`, `3xkk` (R104). -/
def execSeImm (x : Reg) (kk : Byte) (s : State) : Result := .next (s.skipIf (s.readV x == kk))

/-- `SNE Vx, kk`, `4xkk` (R105). -/
def execSneImm (x : Reg) (kk : Byte) (s : State) : Result := .next (s.skipIf (s.readV x != kk))

/-- `SE Vx, Vy`, `5xy0` (R106). -/
def execSeReg (x y : Reg) (s : State) : Result := .next (s.skipIf (s.readV x == s.readV y))

/-- `SNE Vx, Vy`, `9xy0` (R107). -/
def execSneReg (x y : Reg) (s : State) : Result := .next (s.skipIf (s.readV x != s.readV y))

/-- `JP V0, nnn`, `Bnnn`, for either value of `JUMP_INDEXED_USES_VX` (R108). -/
def execJpV0With (p : Params) (nnn : BitVec 12) (s : State) : Result :=
  .next (s.setPc (immAddr nnn + byteAsWord (s.readV (jumpOperand p nnn))))

/-- `JP V0, nnn`, `Bnnn` (R108). -/
def execJpV0 (nnn : BitVec 12) (s : State) : Result := execJpV0With Config.record nnn s

end Sys2Proof.Machine
end

