-- ==== Sys2Proof/Machine/Display.lean ====
section
/-! DEFINITION. The display instructions (spec/42_display.md). -/

namespace Sys2Proof.Machine

/-- `CLS`, `00E0` (R140). -/
def execCls (s : State) : Result := .next (s.paint (Vector.replicate 32 0)).advance

/-- The framebuffer and the collision flag that `Dxyn` gives: `V[x]`, `V[y]` and the `n` sprite bytes at `I` as they
are before anything is written (R141, R144). -/
def drwResult (x y : Reg) (n : Fin 16) (s : State) : Framebuffer × Bool :=
  drawSprite s.fb (s.readV x) (s.readV y) (s.mem.readBytes s.I.toNat n)

/-- `DRW Vx, Vy, n`, `Dxyn` (R141). -/
def execDrw (x y : Reg) (n : Fin 16) (s : State) : Result :=
  complete (outOfRange s.I.toNat n) s
    ((s.paint (drwResult x y n s).1).setFlag (drwResult x y n s).2).advance

end Sys2Proof.Machine
end

