-- ==== Sys2Proof/Machine/IndexMemory.lean ====
section
/-! DEFINITION. The index register and memory instructions (spec/44_index_memory.md). -/

namespace Sys2Proof.Machine

/-- `LD I, nnn`, `Annn` (R160). -/
def execLdI (nnn : BitVec 12) (s : State) : Result := .next (s.setI (immAddr nnn)).advance

/-- `ADD I, Vx`, `Fx1E` (R161): no flag. -/
def execAddI (x : Reg) (s : State) : Result := .next (s.setI (s.I + byteAsWord (s.readV x))).advance

/-- `LD F, Vx`, `Fx29` (R162). -/
def execLdF (x : Reg) (s : State) : Result :=
  match fontDigit (s.readV x) with
  | .ok d => .next (s.setI (glyphAddr d)).advance
  | .error e => complete (some e) s s

/-- `LD B, Vx`, `Fx33` (R163). -/
def execLdB (x : Reg) (s : State) : Result :=
  complete (outOfRange s.I.toNat 3) s (s.storeAtI (bcdDigits (s.readV x))).advance

/-- `LD [I], Vx`, `Fx55`, for either value of `LOAD_STORE_INCREMENTS_I` (R164). -/
def execLdMemVxWith (p : Params) (x : Reg) (s : State) : Result :=
  complete (outOfRange s.I.toNat (x.val + 1)) s
    ((s.storeAtI (s.V.toList.take (x.val + 1))).stepI p x).advance

/-- `LD [I], Vx`, `Fx55` (R164). -/
def execLdMemVx (x : Reg) (s : State) : Result := execLdMemVxWith Config.record x s

/-- `LD Vx, [I]`, `Fx65`, for either value of `LOAD_STORE_INCREMENTS_I` (R165). -/
def execLdVxMemWith (p : Params) (x : Reg) (s : State) : Result :=
  complete (outOfRange s.I.toNat (x.val + 1)) s ((s.loadFromI x).stepI p x).advance

/-- `LD Vx, [I]`, `Fx65` (R165). -/
def execLdVxMem (x : Reg) (s : State) : Result := execLdVxMemWith Config.record x s

end Sys2Proof.Machine
end

