-- ==== Sys2Proof/Machine/Keypad.lean ====
section
/-! DEFINITION. The keypad and timer instructions (spec/43_keypad_timers.md). -/

namespace Sys2Proof.Machine

/-- `SKP Vx`, `Ex9E` (R150). -/
def execSkp (x : Reg) (s : State) : Result :=
  match keyIndex (s.readV x) with
  | .ok k => .next (s.skipIf (s.readKey k))
  | .error e => complete (some e) s s

/-- `SKNP Vx`, `ExA1` (R151). -/
def execSknp (x : Reg) (s : State) : Result :=
  match keyIndex (s.readV x) with
  | .ok k => .next (s.skipIf (!s.readKey k))
  | .error e => complete (some e) s s

/-- `LD Vx, DT`, `Fx07` (R153). -/
def execLdVxDt (x : Reg) (s : State) : Result := .next (s.writeV x s.DT).advance

/-- `LD Vx, K`, `Fx0A` (R152): blocked, with nothing changed, while no key is pressed. -/
def execLdVxK (x : Reg) (s : State) : Result :=
  match s.leastPressed with
  | some k => .next (s.writeV x (BitVec.ofNat 8 k.val)).advance
  | none => .next s

/-- `LD DT, Vx`, `Fx15` (R154). -/
def execLdDtVx (x : Reg) (s : State) : Result := .next (s.setDT (s.readV x)).advance

/-- `LD ST, Vx`, `Fx18` (R155). -/
def execLdStVx (x : Reg) (s : State) : Result := .next (s.setST (s.readV x)).advance

end Sys2Proof.Machine
end

