-- ==== Sys2Proof/Machine/Step.lean ====
section
/-! DEFINITION. The step of the model of record, and the host's way to place one instruction where it fetches. -/

namespace Sys2Proof.Machine

/-- `Step` (R170): one fetch, decode and execute, then the timer divider. -/
def step (s : State) : Host.Outcome State Fault Refusal := cycle decodeWord exec s

/-- `s` with the table's word stored big-endian at `pc` and `pc + 1`, where `step` fetches (R53, R170). -/
def State.withFetchWord (s : State) (nbits w : Nat) : State :=
  { s with mem := s.mem.writeWord s.pc.toNat (tableWord nbits w) }

end Sys2Proof.Machine
end

