-- ==== Sys2Proof/Machine/Boot.lean ====
section
/-! DEFINITION. `Reset(rom)` (R190): the state of R33 with the font table and the ROM image in memory. -/

namespace Sys2Proof.Machine

/-- `Reset(rom)` at the parameters `p` (R190, R191): the booted state, or the `RomLoadError` of R193, after which the
block has no state. -/
def bootWith (p : Params) (rom : List Byte) : Except Exc State :=
  if rom.length > Config.romMax then .error (.romLoadError (.romTooLarge rom.length))
  else .ok { State.reset with
    mem := (Memory.writeBytes [] Config.fontBase p.fontTable.toList).writeBytes Config.programBase rom }

/-- `Reset(rom)` of the model of record. -/
def boot (rom : List Byte) : Except Exc State := bootWith Config.record rom

end Sys2Proof.Machine
end

