-- ==== Sys2Proof/Machine/Interface.lean ====
section
/-! DEFINITION. The interface with the host (R34): the actions it may take between steps, and the values it may
sample. -/

namespace Sys2Proof.Machine

/-- The actions of R34. -/
inductive HostAction where
  | reset (rom : List Byte)
  | step
  | setKey (k : Reg) (pressed : Bool)
  | ackRedraw
  deriving DecidableEq, Repr

/-- `key[k] <- b`. -/
def State.latchKey (s : State) (k : Reg) (pressed : Bool) : State :=
  { s with key := if pressed then s.key ||| BitVec.twoPow 16 k else s.key &&& ~~~BitVec.twoPow 16 k }

/-- `redraw <- 0`. -/
def State.clearRedraw (s : State) : State := { s with redraw := false }

/-- Whether `SetKey` and `AckRedraw` take effect: in a running block; a faulted one "is frozen until `Reset`" (R172,
log 2). -/
def State.takesHostInputs (s : State) : Bool := s.status == .running

/-- `SetKey(k, b)` (R34). -/
def State.setKey (s : State) (k : Reg) (pressed : Bool) : State :=
  if s.takesHostInputs then s.latchKey k pressed else s

/-- `AckRedraw` (R34). -/
def State.ackRedraw (s : State) : State := if s.takesHostInputs then s.clearRedraw else s

/-- The block as the host holds it: no state before a successful `Reset` (R193). -/
abbrev Block := Option State

/-- The state after a `Step` given by the host: a faulted block takes none (R172). -/
def State.stepped (s : State) : State :=
  match Machine.step s with
  | .next t => t
  | .fault _ => s
  | .refused _ => s

/-- One action of the host, between steps (R34, R35, R61). -/
def Block.act (b : Block) : HostAction → Block
  | .reset rom => (boot rom).toOption
  | .step => b.map State.stepped
  | .setKey k pressed => b.map (·.setKey k pressed)
  | .ackRedraw => b.map State.ackRedraw

/-- A sequence of host actions, in their one total order (R35, R61). -/
def Block.acts (b : Block) (as : List HostAction) : Block := as.foldl Block.act b

/-- `fb_out`: the pixel at column `x`, row `y`. -/
def State.fbOut (s : State) (x : Fin 64) (y : Fin 32) : Bool := pixel s.fb x y

/-- `redraw_out`. -/
def State.redrawOut (s : State) : Bool := s.redraw

/-- `sound_active`: 1 exactly when `ST != 0` (R187, decision D14). -/
def State.soundActive (s : State) : Bool := s.ST != 0

/-- `st_expired` of the last step (R181, R184). -/
def State.stExpiredOut (s : State) : Bool := s.stExpired

/-- `status_out`. -/
def State.statusOut (s : State) : Status := s.status

end Sys2Proof.Machine
end

