-- ==== Sys2Proof/Machine/Variants.lean ====
section
/-! DEFINITION. The same machine at any values of the open parameters of R6: the model of record is the variant at
`Config.record`. -/

namespace Sys2Proof.Machine

/-- `exec` at the parameters `p`; the six instructions that a parameter touches take it, the others do not. -/
def execWith (p : Params) (i : Instr) (s : State) : Result :=
  match i with
  | .sys nnn => execSysWith p nnn s
  | .jpV0 nnn => execJpV0With p nnn s
  | .shr x y => execShrWith p x y s
  | .shl x y => execShlWith p x y s
  | .ldMemVx x => execLdMemVxWith p x s
  | .ldVxMem x => execLdVxMemWith p x s
  | i => exec i s

/-- `Step` at the parameters `p` (R170, R6). -/
def stepWith (p : Params) (s : State) : Result := cycle (decodeWordWith p.decodeLax59) (execWith p) s

end Sys2Proof.Machine
end

