-- ==== Sys2Proof/Safety.lean ====
section
/-! DEFINITION. What a safe run is (R197), written over the fetched word's digits and the raw fields of the state, the
invariant of reachable states, and the conventional end of a program (R199). -/

namespace Sys2Proof.Machine

/-- The illegal words, as R78 lists them. -/
def isIllegalWord (op : Nat) : Bool :=
  (op / 4096 == 0x0 && op != 0x00E0 && op != 0x00EE)
    || ((op / 4096 == 0x5 || op / 4096 == 0x9) && op % 16 != 0)
    || (op / 4096 == 0x8 && [0x8, 0x9, 0xA, 0xB, 0xC, 0xD, 0xF].contains (op % 16))
    || (op / 4096 == 0xE && !([0x9E, 0xA1].contains (op % 256)))
    || (op / 4096 == 0xF && !([0x07, 0x0A, 0x15, 0x18, 0x1E, 0x29, 0x33, 0x55, 0x65].contains (op % 256)))

/-- The register that a word's digit `x` names. -/
def digitX (op : Nat) : Reg := ⟨op / 256 % 16, Nat.mod_lt _ (by decide)⟩

/-- The exception that executing the word `op` raises in the state `s`, by the conditions of R171 and R197. -/
def wordFault (s : State) (op : Nat) : Option Exc :=
  if isIllegalWord op then some (.illegalInstruction (BitVec.ofNat 16 op))
  else if op = 0x00EE ∧ s.sp.val = 0 then some .stackUnderflow
  else if op / 4096 = 0x2 ∧ s.sp.val = 16 then some .stackOverflow
  else if op / 4096 = 0xE ∧ s.V[digitX op].toNat > 15 then some (.invalidKeyIndex s.V[digitX op])
  else if op / 4096 = 0xF ∧ op % 256 = 0x29 ∧ s.V[digitX op].toNat > 15 then some (.invalidFontDigit s.V[digitX op])
  else if op / 4096 = 0xD ∧ op % 16 > 0 ∧ s.I.toNat + op % 16 - 1 > 0xFFF then
    some (.memoryOutOfRange (max s.I.toNat 0x1000))
  else if op / 4096 = 0xF ∧ op % 256 = 0x33 ∧ s.I.toNat + 2 > 0xFFF then
    some (.memoryOutOfRange (max s.I.toNat 0x1000))
  else if op / 4096 = 0xF ∧ (op % 256 = 0x55 ∨ op % 256 = 0x65) ∧ s.I.toNat + op / 256 % 16 > 0xFFF then
    some (.memoryOutOfRange (max s.I.toNat 0x1000))
  else none

/-- The exception that the next step of a running block raises, if any: the fetch check first (R186). -/
def stepFault (s : State) : Option Exc :=
  if s.pc.toNat > 0xFFE then some (.memoryOutOfRange s.pc.toNat)
  else wordFault s ((s.mem.read s.pc.toNat).toNat * 256 + (s.mem.read (s.pc.toNat + 1)).toNat)

/-- A running block whose next step breaks none of the program's obligations (R197). -/
def State.safe (s : State) : Prop := s.status = .running ∧ stepFault s = none

/-- The `info` values that R171 lets a step of the model of record record. -/
def Exc.stepInfo : Exc → Prop
  | .romLoadError _ => False
  | .illegalInstruction op => isIllegalWord op.toNat = true
  | .stackOverflow => True
  | .stackUnderflow => True
  | .invalidRegisterIndex _ => False
  | .invalidKeyIndex k => k.toNat > 15
  | .memoryOutOfRange a => 0xFFE < a ∧ a < 0x10000
  | .invalidFontDigit d => d.toNat > 15

/-- The invariant of reachable states: memory is in its canonical form (so its cells exist), the stack entries in use
are addresses that were fetched from (R101), `pc` is at most what `Bnnn` can reach (R23, R108), and a recorded
exception is one a step raises (R171, R176). -/
structure State.Inv (s : State) : Prop where
  memory : s.mem.wf = true
  stack  : ∀ k : Fin 16, k.val < s.sp.val → s.stack[k].toNat ≤ 0xFFE
  pc     : s.pc.toNat ≤ 0x10FE
  status : ∀ e, s.status = .faulted e → e.stepInfo

/-- The end condition that R199 offers: running, at a jump to itself. -/
def State.ended (s : State) : Prop :=
  s.status = .running ∧ s.pc.toNat ≤ 0xFFE ∧ s.mem.readWord s.pc.toNat = (0x1000 ||| s.pc)

end Sys2Proof.Machine
end

