-- ==== Sys2Proof/Certificates/Slice0/Obligations.lean ====
section
/-! DEFINITION. The statements for the provers, from the numbered rules of spec/. Each docstring names its rules. -/

open Sys2Proof Sys2Proof.Machine

/-! ### Encoding (spec/30_encoding.md) -/

/-- R74, R75, R83: decode of encode is the instruction, as a word and as bytes followed by anything. -/
def Obligations.DecodeOfEncodeIsIdentity : Prop :=
  ∀ (i : Instr) (rest : List Byte), i.wellFormed = true →
    decodeWord (encode i) = .ok i ∧ decodeBytes (encodeBytes i ++ rest) = .ok (i, rest)

/-- R75, R79: no bit of a word that decodes is dropped, and what it decodes to is well-formed. -/
def Obligations.EncodeOfDecodeIsTheWord : Prop :=
  ∀ (op : Word) (i : Instr), decodeWord op = .ok i → encode i = op ∧ i.wellFormed = true

/-- R74: decode answers the first row of the opcode table that the word selects, and rejects a word that selects
none. -/
def Obligations.DecodeAnswersTheFirstSelectedRow : Prop :=
  ∀ op : Word, (opcodeTable.find? (·.selects op)).map OpcodeRow.number =
    match decodeWord op with
    | .ok i => some i.number
    | .error _ => none

/-- R71, R74: words written out from the spec, one or more per family. -/
def Obligations.WordsOfTheSpecDecodeAsWritten : Prop :=
  decodeWord 0x00E0 = .ok .cls ∧ decodeWord 0x6A05 = .ok (.ldImm 10 0x05) ∧ decodeWord 0xA123 = .ok (.ldI 0x123) ∧
  decodeWord 0xF033 = .ok (.ldB 0) ∧ decodeWord 0xD12F = .ok (.drw 1 2 15) ∧ decodeWord 0x8AB4 = .ok (.addReg 10 11) ∧
  decodeWord 0x1ABC = .ok (.jp 0xABC) ∧ decodeWord 0xE29E = .ok (.skp 2) ∧ decodeWord 0x0123 = .ok (.sys 0x123) ∧
  decodeWord 0x5AB1 = .error (.illegalInstruction 0x5AB1)

/-- R77: a non-zero low nibble of families 5 and 9 is illegal in the model of record and ignored when
`DECODE_LAX_5_9` is true; no other family depends on the parameter. The strict reading is the spec's decision D4. -/
def Obligations.LowNibbleOfFamilies5And9 : Prop :=
  ∀ op : Word,
    (op.toNat / 4096 = 5 → op.toNat % 16 ≠ 0 → decodeWord op = .error (.illegalInstruction op)) ∧
    (op.toNat / 4096 = 9 → op.toNat % 16 ≠ 0 → decodeWord op = .error (.illegalInstruction op)) ∧
    (op.toNat / 4096 = 5 → decodeWordWith true op =
      .ok (.seReg ⟨op.toNat / 256 % 16, by omega⟩ ⟨op.toNat / 16 % 16, by omega⟩)) ∧
    (op.toNat / 4096 = 9 → decodeWordWith true op =
      .ok (.sneReg ⟨op.toNat / 256 % 16, by omega⟩ ⟨op.toNat / 16 % 16, by omega⟩)) ∧
    (op.toNat / 4096 ≠ 5 → op.toNat / 4096 ≠ 9 → decodeWordWith true op = decodeWord op) ∧
    (op.toNat % 16 = 0 → decodeWordWith true op = decodeWord op)

/-! ### The step (spec/60_exceptions.md) -/

/-- R170: the five points of a step of a running block, in order. `pc ≤ 0xFFE` in the points after the first. -/
def Obligations.StepRunsTheDecodedInstruction : Prop :=
  ∀ s : State, s.status = .running →
    (s.pc.toNat > 0xFFE → step s = .next (s.raise (.memoryOutOfRange s.pc.toNat))) ∧
    (∀ op : Word, s.pc.toNat ≤ 0xFFE → op = s.mem.read s.pc.toNat ++ s.mem.read (s.pc.toNat + 1) →
      (∀ r, decodeWord op = .error r → step s = .next (s.raise (.illegalInstruction op))) ∧
      (∀ i, decodeWord op = .ok i → ∃ t, exec i s = .next t ∧
        (t.status = .running → step s = .next (tick t)) ∧ (t.status ≠ .running → step s = .next t)))

/-- R181: the divide-by-10 after an instruction that did not fault. `t` is the state that the instruction leaves and
`u` the state after the step. That the counter is in the block and counts blocked steps is the spec's decision D13. -/
def Obligations.TickFollowsANonFaultingInstruction : Prop :=
  ∀ (s t : State) (i : Instr), s.status = .running → s.pc.toNat ≤ 0xFFE →
    decodeWord (s.mem.readWord s.pc.toNat) = .ok i → exec i s = .next t → t.status = .running →
    ∃ u, step s = .next u ∧
      u.div.val = (t.div.val + 1) % 10 ∧
      u.DT.toNat = (if t.div.val = 9 then t.DT.toNat - 1 else t.DT.toNat) ∧
      u.ST.toNat = (if t.div.val = 9 then t.ST.toNat - 1 else t.ST.toNat) ∧
      (u.stExpired = true ↔ t.div.val = 9 ∧ t.ST.toNat = 1) ∧
      u = { t with div := u.div, DT := u.DT, ST := u.ST, stExpired := u.stExpired }

/-- R172: a fault keeps everything but the status, does not tick, and disables all further steps, and the state is then
frozen until `Reset`, whatever else the host does (the spec's decision D12; that this holds of `SetKey` and `AckRedraw`
too is log 2). That `st_expired` is 0 after it is R184. -/
def Obligations.FaultIsPreciseAndTerminal : Prop :=
  ∀ (s t : State), step s = .next t → t.status ≠ .running →
    t = { s with status := t.status, stExpired := false } ∧
    (∀ e, t.status = .faulted e → step t = .fault (.notRunning e)) ∧
    ∀ as : List HostAction, (∀ a ∈ as, ∀ rom, a ≠ .reset rom) → Block.acts (some t) as = some t

/-- R171, R186, R197: from every running state a step answers a next state, and it faults exactly where the spec's
conditions say, with the exception and the `info` they say. -/
def Obligations.StepFaultsExactlyWhereTheSpecSays : Prop :=
  ∀ s : State, s.status = .running →
    ∃ t, step s = .next t ∧ t.status = (match stepFault s with | some e => .faulted e | none => .running)

/-- R173: the illegal words of R78 trap, with the whole fetched word as `info`, and nothing else raises
`IllegalInstruction`. -/
def Obligations.IllegalWordsTrap : Prop :=
  ∀ s : State, s.status = .running → s.pc.toNat ≤ 0xFFE →
    (isIllegalWord (s.mem.readWord s.pc.toNat).toNat = true →
      step s = .next { s with status := .faulted (.illegalInstruction (s.mem.readWord s.pc.toNat)),
                              stExpired := false }) ∧
    (∀ t op, step s = .next t → t.status = .faulted (.illegalInstruction op) →
      op = s.mem.readWord s.pc.toNat ∧ isIllegalWord op.toNat = true)

/-- R176: no step raises `InvalidRegisterIndex`. -/
def Obligations.InvalidRegisterIndexIsUnreachable : Prop :=
  ∀ (s t : State) (k : Nat), s.status = .running → step s = .next t → t.status ≠ .faulted (.invalidRegisterIndex k)

/-- The invariant holds at reset. -/
def Obligations.ResetMeetsTheInvariant : Prop := State.Inv State.reset

/-- Every step keeps the invariant: memory's canonical form, the stack entries in use, the range of `pc`, and the
recorded exception (R24, R23, R101, R108, R171). -/
def Obligations.StepKeepsTheInvariant : Prop :=
  ∀ s t : State, s.Inv → step s = .next t → t.Inv

/-- R183, R181: over `n` non-faulting steps with no timer write, both timers fall by the number of ticks, clamped at
0. From `div = 0` the number of ticks is `n / 10`; that any other `div` shifts the ticks is R181's counter (the spec's
decision D13). -/
def Obligations.TimersFallOnceInTenSteps : Prop :=
  ∀ (n : Nat) (f : Nat → State),
    (∀ k, k < n → step (f k) = .next (f (k + 1)) ∧ (f (k + 1)).status = .running ∧
      ∀ x : Reg, decodeWord ((f k).mem.readWord (f k).pc.toNat) ≠ .ok (.ldDtVx x) ∧
        decodeWord ((f k).mem.readWord (f k).pc.toNat) ≠ .ok (.ldStVx x)) →
    (f n).DT.toNat = (f 0).DT.toNat - ((f 0).div.val + n) / 10 ∧
    (f n).ST.toNat = (f 0).ST.toNat - ((f 0).div.val + n) / 10 ∧
    (f n).div.val = ((f 0).div.val + n) % 10

/-- R182: at the step that ticks, `Fx07` reads `DT` before the decrement, and what `Fx15` or `Fx18` writes is already
decremented by the same step. -/
def Obligations.InstructionPrecedesItsTick : Prop :=
  ∀ (x : Reg) (s : State) (i : Instr), s.status = .running → s.pc.toNat ≤ 0xFFE → s.div.val = 9 →
    decodeWord (s.mem.readWord s.pc.toNat) = .ok i →
    (i = .ldVxDt x → ∃ u, step s = .next u ∧ u.V[x] = s.DT ∧ u.DT.toNat = s.DT.toNat - 1 ∧ u.div.val = 0) ∧
    (i = .ldDtVx x → ∃ u, step s = .next u ∧ u.DT.toNat = s.V[x].toNat - 1 ∧ u.div.val = 0) ∧
    (i = .ldStVx x → ∃ u, step s = .next u ∧ u.ST.toNat = s.V[x].toNat - 1 ∧
      (u.stExpired = true ↔ s.V[x].toNat = 1) ∧ u.div.val = 0)

/-- R200: a timer written with `v` in the first of `10 * v` non-faulting steps, the only one of them that writes a
timer, is 0 after them and not yet 0 after any `10 * (v - 1)` or fewer of them. -/
def Obligations.WrittenTimerReachesZeroOnTime : Prop :=
  ∀ (x : Reg) (f : Nat → State) (v : Nat) (i : Instr), v = (f 0).V[x].toNat → 0 < v →
    decodeWord ((f 0).mem.readWord (f 0).pc.toNat) = .ok i →
    (∀ k, k < 10 * v → step (f k) = .next (f (k + 1)) ∧ (f (k + 1)).status = .running) →
    (∀ k, 0 < k → k < 10 * v → ∀ y : Reg, decodeWord ((f k).mem.readWord (f k).pc.toNat) ≠ .ok (.ldDtVx y) ∧
      decodeWord ((f k).mem.readWord (f k).pc.toNat) ≠ .ok (.ldStVx y)) →
    (i = .ldDtVx x → (f (10 * v)).DT.toNat = 0 ∧ ∀ n, 0 < n → n ≤ 10 * (v - 1) → (f n).DT.toNat ≠ 0) ∧
    (i = .ldStVx x → (f (10 * v)).ST.toNat = 0 ∧ ∀ n, 0 < n → n ≤ 10 * (v - 1) → (f n).ST.toNat ≠ 0)

/-- R6: the variant machine at the default parameters is the model of record. -/
def Obligations.VariantAtTheDefaultsIsTheModelOfRecord : Prop :=
  ∀ s : State, stepWith Config.record s = step s

/-! ### Whole-machine ownership of state (spec/10_state.md) -/

/-- R21: an instruction changes a general register only by naming it as its destination `x`, by `Fx65` with an index
up to `x`, or, for `V[15]`, by being one of the six flag writers. -/
def Obligations.RegistersChangeOnlyByTheirInstructions : Prop :=
  ∀ (i : Instr) (s t : State) (r : Reg), exec i s = .next t → t.V[r] ≠ s.V[r] →
    match i with
    | .ldImm x _ | .addImm x _ | .rnd x _ => r = x
    | .ldReg x _ | .orReg x _ | .andReg x _ | .xorReg x _ => r = x
    | .ldVxDt x | .ldVxK x => r = x
    | .addReg x _ | .subReg x _ | .shr x _ | .subn x _ | .shl x _ => r = x ∨ r = 15
    | .drw _ _ _ => r = 15
    | .ldVxMem x => r ≤ x
    | _ => False

/-- R50, R56: only `Fx33` and `Fx55` change memory, `Fx33` the three bytes from `I` and `Fx55` the `x + 1` bytes from
`I`. -/
def Obligations.MemoryChangesOnlyByBcdAndDump : Prop :=
  ∀ (i : Instr) (s t : State) (a : Nat), s.mem.wf = true → exec i s = .next t → t.mem.read a ≠ s.mem.read a →
    (∃ x, i = .ldB x ∧ s.I.toNat ≤ a ∧ a ≤ s.I.toNat + 2) ∨
    (∃ x : Reg, i = .ldMemVx x ∧ s.I.toNat ≤ a ∧ a ≤ s.I.toNat + x.val)

/-- R27, R28: only `00E0` and `Dxyn` change a pixel, each of them sets `redraw` when it completes, and no instruction
clears it. -/
def Obligations.DisplayChangesOnlyByClearAndDraw : Prop :=
  ∀ (i : Instr) (s t : State), exec i s = .next t →
    (t.fb ≠ s.fb → i = .cls ∨ ∃ x y n, i = .drw x y n) ∧
    (t.redraw ≠ s.redraw → (i = .cls ∨ ∃ x y n, i = .drw x y n) ∧ t.redraw = true) ∧
    (i = .cls ∨ (∃ x y n, i = .drw x y n) → s.status = .running → t.status = .running → t.redraw = true)

/-- R22, R24, R25, R26, R29: which instructions change `I`, the stack, the timers, the keypad latch and the divider.
`draws` counts the random bytes (the model's own field, log 1). -/
def Obligations.SpecialRegistersChangeOnlyByTheirInstructions : Prop :=
  ∀ (i : Instr) (s t : State), exec i s = .next t →
    (t.I ≠ s.I → (∃ nnn, i = .ldI nnn) ∨ (∃ x, i = .addI x) ∨ ∃ x, i = .ldF x) ∧
    (t.sp ≠ s.sp → i = .ret ∨ ∃ nnn, i = .call nnn) ∧
    (t.stack ≠ s.stack → ∃ nnn, i = .call nnn) ∧
    (t.DT ≠ s.DT → ∃ x, i = .ldDtVx x) ∧
    (t.ST ≠ s.ST → ∃ x, i = .ldStVx x) ∧
    (t.draws ≠ s.draws → ∃ x kk, i = .rnd x kk) ∧
    t.key = s.key ∧ t.div = s.div

/-- R109: how each instruction sets `pc`. That `RET` adds 2 to the popped entry (R101) is the spec's decision D2 (log
12), and that `Bnnn` adds `V[0]` (R108) its decision D5 (log 3). -/
def Obligations.EachInstructionSetsPcByItsClass : Prop :=
  ∀ (i : Instr) (s t : State), s.status = .running → exec i s = .next t →
    (t.status ≠ .running → t.pc = s.pc) ∧
    (t.status = .running →
      match i with
      | .seImm _ _ | .sneImm _ _ | .seReg _ _ | .sneReg _ _ | .skp _ | .sknp _ => t.pc = s.pc + 4 ∨ t.pc = s.pc + 2
      | .jp nnn | .call nnn => t.pc.toNat = nnn.toNat
      | .jpV0 nnn => t.pc.toNat = nnn.toNat + s.V[0].toNat
      | .ret => ∀ h : 0 < s.sp.val, t.pc = s.stack[s.sp.val - 1] + 2
      | .ldVxK _ => if s.key = 0 then t.pc = s.pc else t.pc = s.pc + 2
      | _ => t.pc = s.pc + 2)

/-- Two memories in canonical form that read alike at every address of R31's memory are equal data. The canonical form is
the model's choice (log 7, DESIGN CHOICE), not a rule of the spec. -/
def Obligations.MemoriesThatReadAlikeAreEqual : Prop :=
  ∀ m m' : Memory, m.wf = true → m'.wf = true → (∀ a, a < 4096 → m.read a = m'.read a) → m = m'

/-! ### Control transfer (spec/40_control_flow.md) -/

/-- R100: `SYS` takes `IllegalInstruction(op)` in the model of record, and only advances `pc` with `SYS_POLICY = nop`
(the spec's decision D3). That `st_expired` is 0 after the fault is R184. -/
def Obligations.SysTakesIllegalInstruction : Prop :=
  ∀ (nnn : BitVec 12) (s : State) (p : Params),
    exec (.sys nnn) s = .next { s with status := .faulted (.illegalInstruction (encode (.sys nnn))),
                                       stExpired := false } ∧
    (p.sysPolicy = .nop → execWith p (.sys nnn) s = .next { s with pc := s.pc + 2 })

/-- R101: `RET` pops and resumes two bytes after the call (the spec's decision D2); it takes `StackUnderflow` when the
stack is empty. -/
def Obligations.ReturnPopsAndResumesAfterTheCall : Prop :=
  ∀ s : State,
    (∀ h : 0 < s.sp.val, ∃ t, exec .ret s = .next t ∧ t.sp.val = s.sp.val - 1 ∧
      t.pc.toNat = (s.stack[s.sp.val - 1].toNat + 2) % 65536 ∧ t = { s with sp := t.sp, pc := t.pc }) ∧
    (s.sp.val = 0 → exec .ret s = .next { s with status := .faulted .stackUnderflow, stExpired := false })

/-- R103: `CALL` pushes its own address; it takes `StackOverflow` when the stack is full. -/
def Obligations.CallPushesItsOwnAddress : Prop :=
  ∀ (nnn : BitVec 12) (s : State),
    (s.sp.val < 16 → ∃ t, exec (.call nnn) s = .next t ∧ t.sp.val = s.sp.val + 1 ∧ t.pc.toNat = nnn.toNat ∧
      (∀ k : Fin 16, t.stack[k] = if k.val = s.sp.val then s.pc else s.stack[k]) ∧
      t = { s with sp := t.sp, stack := t.stack, pc := t.pc }) ∧
    (s.sp.val = 16 → exec (.call nnn) s = .next { s with status := .faulted .stackOverflow, stExpired := false })

/-- R101, R103: a `RET` that finds the stack a `CALL` left resumes at the instruction after that `CALL`, at the call's
own depth. -/
def Obligations.CallThenReturnResumesAfterTheCall : Prop :=
  ∀ (nnn : BitVec 12) (s t t' : State), s.sp.val < 16 → exec (.call nnn) s = .next t →
    t'.sp = t.sp → t'.stack = t.stack →
    ∃ u, exec .ret t' = .next u ∧ u.pc = s.pc + 2 ∧ u.sp = s.sp ∧
      (∀ k : Fin 16, k.val < s.sp.val → u.stack[k] = s.stack[k])

/-- R102: `JP` replaces `pc`; a target above `0xFFE` faults at the next fetch. -/
def Obligations.JumpReplacesPc : Prop :=
  ∀ (nnn : BitVec 12) (s : State), s.status = .running →
    ∃ t, exec (.jp nnn) s = .next t ∧ t.pc.toNat = nnn.toNat ∧ t = { s with pc := t.pc } ∧
      (t.pc.toNat > 0xFFE → nnn.toNat = 0xFFF ∧
        step t = .next { t with status := .faulted (.memoryOutOfRange t.pc.toNat), stExpired := false })

/-- R108: the indexed jump adds `V[0]` to `nnn` without reducing the sum modulo 4096, and a target above `0xFFE` faults
at the next fetch. Which register is added is the spec's decision D5; both values of `JUMP_INDEXED_USES_VX` stand
here. -/
def Obligations.IndexedJumpReplacesPc : Prop :=
  ∀ (nnn : BitVec 12) (s : State) (p : Params), s.status = .running →
    (∃ t, exec (.jpV0 nnn) s = .next t ∧ t.pc.toNat = nnn.toNat + s.V[0].toNat ∧ t = { s with pc := t.pc } ∧
      (t.pc.toNat > 0xFFE →
        step t = .next { t with status := .faulted (.memoryOutOfRange t.pc.toNat), stExpired := false })) ∧
    (∃ t, execWith p (.jpV0 nnn) s = .next t ∧ t = { s with pc := t.pc } ∧ t.pc.toNat = nnn.toNat +
      (if p.jumpIndexedUsesVx then s.V[nnn.toNat / 256]'(by omega) else s.V[0]).toNat)

/-- R104, R105, R106, R107: the skips on a comparison change nothing but `pc`. -/
def Obligations.ComparisonSkips : Prop :=
  ∀ (x y : Reg) (kk : Byte) (s : State),
    exec (.seImm x kk) s = .next { s with pc := if s.V[x].toNat = kk.toNat then s.pc + 4 else s.pc + 2 } ∧
    exec (.sneImm x kk) s = .next { s with pc := if s.V[x].toNat ≠ kk.toNat then s.pc + 4 else s.pc + 2 } ∧
    exec (.seReg x y) s = .next { s with pc := if s.V[x].toNat = s.V[y].toNat then s.pc + 4 else s.pc + 2 } ∧
    exec (.sneReg x y) s = .next { s with pc := if s.V[x].toNat ≠ s.V[y].toNat then s.pc + 4 else s.pc + 2 }

/-! ### Register moves and arithmetic (spec/41_alu.md) -/

/-- The general registers after writing `v` to `V[x]`, everything else of `s` as it was and `pc` advanced. -/
def Sys2Proof.Claims.WritesOnly (s t : State) (x : Reg) (v : Nat) : Prop :=
  (∀ r : Reg, t.V[r].toNat = if r = x then v else s.V[r].toNat) ∧ t = { s with V := t.V, pc := s.pc + 2 }

/-- The general registers after writing `v` to `V[x]` and then the flag to `V[15]` (R135), everything else of `s` as
it was and `pc` advanced. -/
def Sys2Proof.Claims.WritesThenFlag (s t : State) (x : Reg) (v flag : Nat) : Prop :=
  (∀ r : Reg, t.V[r].toNat = if r = 15 then flag else if r = x then v else s.V[r].toNat) ∧
    t = { s with V := t.V, pc := s.pc + 2 }

open Sys2Proof.Claims

/-- R120, R122, R123, R124, R125: the moves and the logic operations write `V[x]` and no flag, bit by bit. -/
def Obligations.MovesAndLogicWriteOneRegister : Prop :=
  ∀ (x y : Reg) (kk : Byte) (s : State),
    (∃ t, exec (.ldImm x kk) s = .next t ∧ WritesOnly s t x kk.toNat) ∧
    (∃ t, exec (.ldReg x y) s = .next t ∧ WritesOnly s t x s.V[y].toNat) ∧
    (∃ t, exec (.orReg x y) s = .next t ∧ WritesOnly s t x t.V[x].toNat ∧
      ∀ b, t.V[x].getLsbD b = (s.V[x].getLsbD b || s.V[y].getLsbD b)) ∧
    (∃ t, exec (.andReg x y) s = .next t ∧ WritesOnly s t x t.V[x].toNat ∧
      ∀ b, t.V[x].getLsbD b = (s.V[x].getLsbD b && s.V[y].getLsbD b)) ∧
    (∃ t, exec (.xorReg x y) s = .next t ∧ WritesOnly s t x t.V[x].toNat ∧
      ∀ b, t.V[x].getLsbD b = (s.V[x].getLsbD b ^^ s.V[y].getLsbD b))

/-- R121: add immediate wraps and writes no flag. -/
def Obligations.AddImmediateWrapsWithNoFlag : Prop :=
  ∀ (x : Reg) (kk : Byte) (s : State),
    ∃ t, exec (.addImm x kk) s = .next t ∧ WritesOnly s t x ((s.V[x].toNat + kk.toNat) % 256)

/-- R126: add with carry flag; with `x = 15` the flag wins (R135, the spec's decision D8). -/
def Obligations.AddRegistersWritesCarry : Prop :=
  ∀ (x y : Reg) (s : State),
    ∃ t, exec (.addReg x y) s = .next t ∧
      WritesThenFlag s t x ((s.V[x].toNat + s.V[y].toNat) % 256) (if s.V[x].toNat + s.V[y].toNat > 255 then 1 else 0)

/-- R127, R129: both subtractions, the flag being "no borrow"; with `x = 15` the flag wins (R135, the spec's decision
D8). -/
def Obligations.SubtractionsWriteNotBorrow : Prop :=
  ∀ (x y : Reg) (s : State),
    (∃ t, exec (.subReg x y) s = .next t ∧
      WritesThenFlag s t x ((s.V[x].toNat + 256 - s.V[y].toNat) % 256) (if s.V[x].toNat ≥ s.V[y].toNat then 1 else 0)) ∧
    (∃ t, exec (.subn x y) s = .next t ∧
      WritesThenFlag s t x ((s.V[y].toNat + 256 - s.V[x].toNat) % 256) (if s.V[y].toNat ≥ s.V[x].toNat then 1 else 0))

/-- R128, R130: both shifts, in the model of record and for both values of `SHIFT_SOURCE` (the spec's decision D6); with
`x = 15` the flag wins (D8). -/
def Obligations.ShiftsWriteTheBitShiftedOut : Prop :=
  ∀ (p : Params) (x y : Reg) (s : State) (a : Nat),
    a = (match p.shiftSource with | .vx => s.V[x] | .vy => s.V[y]).toNat →
    (∃ t, exec (.shr x y) s = .next t ∧ WritesThenFlag s t x (s.V[x].toNat / 2) (s.V[x].toNat % 2)) ∧
    (∃ t, exec (.shl x y) s = .next t ∧ WritesThenFlag s t x (2 * s.V[x].toNat % 256) (s.V[x].toNat / 128)) ∧
    (∃ t, execWith p (.shr x y) s = .next t ∧ WritesThenFlag s t x (a / 2) (a % 2)) ∧
    (∃ t, execWith p (.shl x y) s = .next t ∧ WritesThenFlag s t x (2 * a % 256) (a / 128))

/-- R131: the drawn byte masked, whatever byte is drawn; `RND` itself is this at the free value that comes. The
counter `draws` is the model's own (log 1). -/
def Obligations.RandomByteIsMasked : Prop :=
  ∀ (x : Reg) (kk : Byte) (s : State),
    (∀ r : Byte, ∃ t, execRndWith r x kk s = .next t ∧ (∀ b, t.V[x].getLsbD b = (r.getLsbD b && kk.getLsbD b)) ∧
      (∀ j : Reg, j ≠ x → t.V[j] = s.V[j]) ∧ t = { s with V := t.V, pc := s.pc + 2, draws := s.draws + 1 }) ∧
    (∃ r t, exec (.rnd x kk) s = .next t ∧ execRndWith r x kk s = .next t ∧ t.V[x] &&& ~~~kk = 0)

/-! ### Display (spec/42_display.md) -/

/-- R140: clear display. -/
def Obligations.ClearBlanksEveryPixel : Prop :=
  ∀ s : State, ∃ t, exec .cls s = .next t ∧ (∀ (x : Fin 64) (y : Fin 32), pixel t.fb x y = false) ∧
    t = { s with fb := t.fb, redraw := true, pc := s.pc + 2 }

/-- R141, R142: a set bit of the `n`-row sprite at `I`, drawn at `(V[x], V[y])`, falls on the pixel `(px, py)`. -/
def Sys2Proof.Claims.SpriteCovers (s : State) (x y : Reg) (n : Fin 16) (px : Fin 64) (py : Fin 32) : Prop :=
  ∃ r c : Nat, r < n.val ∧ c < 8 ∧ (s.mem.read (s.I.toNat + r)).getLsbD (7 - c) = true ∧
    px.val = (s.V[x].toNat + c) % 64 ∧ py.val = (s.V[y].toNat + r) % 32

/-- R141, R142, R144: the sprite's pixels are toggled and no others, the flag says whether a White pixel turned Black,
coordinates are read before the flag is written (the spec's decision D8), height 0 draws nothing (D21), and an
out-of-range sprite faults (D9). -/
def Obligations.DrawTogglesTheSpritePixels : Prop :=
  ∀ (x y : Reg) (n : Fin 16) (s : State),
    ((n.val = 0 ∨ s.I.toNat + n.val - 1 ≤ 0xFFF) →
      ∃ t, exec (.drw x y n) s = .next t ∧
        (∀ px py, pixel t.fb px py = true ↔ Xor (pixel s.fb px py = true) (SpriteCovers s x y n px py)) ∧
        (t.V[15] = 1 ∨ t.V[15] = 0) ∧
        (t.V[15] = 1 ↔ ∃ px py, pixel s.fb px py = true ∧ SpriteCovers s x y n px py) ∧
        (∀ r : Reg, r ≠ 15 → t.V[r] = s.V[r]) ∧
        t = { s with V := t.V, fb := t.fb, redraw := true, pc := s.pc + 2 }) ∧
    (0 < n.val ∧ s.I.toNat + n.val - 1 > 0xFFF →
      exec (.drw x y n) s = .next { s with status := .faulted (.memoryOutOfRange (max s.I.toNat 0x1000)),
                                           stExpired := false })

/-- R143: a second draw of the same sprite at the same location (from any state with that framebuffer, sprite and
location) restores the framebuffer, and its flag is 1 exactly when a set sprite bit lies over a pixel that is White
after the first draw; so it is 1 whenever the first draw set any pixel White. Height 0 (the spec's decision D21) and
`V[15]` as a coordinate (its decision D8) are included. -/
def Obligations.DrawingTwiceRestoresTheFramebuffer : Prop :=
  ∀ (x y : Reg) (n : Fin 16) (s t t' : State), (n.val = 0 ∨ s.I.toNat + n.val - 1 ≤ 0xFFF) →
    exec (.drw x y n) s = .next t →
    t'.fb = t.fb → t'.mem = s.mem → t'.I = s.I → t'.V[x] = s.V[x] → t'.V[y] = s.V[y] →
    ∃ u, exec (.drw x y n) t' = .next u ∧ u.fb = s.fb ∧
      (u.V[15] = 1 ↔ ∃ px py, pixel t.fb px py = true ∧ SpriteCovers s x y n px py) ∧
      ((∃ px py, pixel s.fb px py = false ∧ pixel t.fb px py = true) → u.V[15] = 1)

/-! ### Keypad and timers (spec/43_keypad_timers.md) -/

/-- R150, R151: the key skips change nothing but `pc`; a register above 15 takes `InvalidKeyIndex`. -/
def Obligations.KeySkips : Prop :=
  ∀ (x : Reg) (s : State),
    (s.V[x].toNat ≤ 15 →
      exec (.skp x) s = .next { s with pc := if s.key.getLsbD s.V[x].toNat = true then s.pc + 4 else s.pc + 2 } ∧
      exec (.sknp x) s = .next { s with pc := if s.key.getLsbD s.V[x].toNat = false then s.pc + 4 else s.pc + 2 }) ∧
    (s.V[x].toNat > 15 →
      exec (.skp x) s = .next { s with status := .faulted (.invalidKeyIndex s.V[x]), stExpired := false } ∧
      exec (.sknp x) s = .next { s with status := .faulted (.invalidKeyIndex s.V[x]), stExpired := false })

/-- R152: the key wait takes the least pressed key, and with none pressed changes nothing. -/
def Obligations.KeyWaitTakesTheLeastPressedKey : Prop :=
  ∀ (x : Reg) (s : State),
    (∀ k : Reg, s.key.getLsbD k = true → (∀ j : Reg, j < k → s.key.getLsbD j = false) →
      ∃ t, exec (.ldVxK x) s = .next t ∧ WritesOnly s t x k.val) ∧
    ((∀ k : Reg, s.key.getLsbD k = false) → exec (.ldVxK x) s = .next s)

/-- R153, R154, R155: the timer moves are byte copies, and a non-zero sound timer makes `sound_active` 1. -/
def Obligations.TimerMovesCopyOneByte : Prop :=
  ∀ (x : Reg) (s : State),
    (∃ t, exec (.ldVxDt x) s = .next t ∧ WritesOnly s t x s.DT.toNat) ∧
    exec (.ldDtVx x) s = .next { s with DT := s.V[x], pc := s.pc + 2 } ∧
    (∃ t, exec (.ldStVx x) s = .next t ∧ t = { s with ST := s.V[x], pc := s.pc + 2 } ∧
      (t.soundActive = true ↔ s.V[x].toNat ≠ 0))

/-! ### Index register and memory (spec/44_index_memory.md) -/

/-- R160, R161: loading and adding to `I`, with no flag and no fault. -/
def Obligations.IndexLoadAndAdd : Prop :=
  ∀ (nnn : BitVec 12) (x : Reg) (s : State),
    (∃ t, exec (.ldI nnn) s = .next t ∧ t.I.toNat = nnn.toNat ∧ t = { s with I := t.I, pc := s.pc + 2 }) ∧
    (∃ t, exec (.addI x) s = .next t ∧ t.I.toNat = (s.I.toNat + s.V[x].toNat) % 65536 ∧
      t = { s with I := t.I, pc := s.pc + 2 })

/-- R162: the glyph address of a digit; a register above 15 takes `InvalidFontDigit` (the spec's decision D11). -/
def Obligations.FontDigitGivesItsGlyphAddress : Prop :=
  ∀ (x : Reg) (s : State),
    (s.V[x].toNat ≤ 15 → ∃ t, exec (.ldF x) s = .next t ∧ t.I.toNat = 5 * s.V[x].toNat ∧
      t = { s with I := t.I, pc := s.pc + 2 }) ∧
    (s.V[x].toNat > 15 →
      exec (.ldF x) s = .next { s with status := .faulted (.invalidFontDigit s.V[x]), stExpired := false })

/-- R163: the three decimal digits are stored at `I`, `I + 1`, `I + 2`, every other byte reads as before, and an
access that leaves the memory faults before any byte is written. -/
def Obligations.BcdStoresThreeDigits : Prop :=
  ∀ (x : Reg) (s : State), s.mem.wf = true →
    (s.I.toNat + 2 ≤ 0xFFF → ∃ t, exec (.ldB x) s = .next t ∧
      (∀ a, (t.mem.read a).toNat =
        if a = s.I.toNat then s.V[x].toNat / 100
        else if a = s.I.toNat + 1 then s.V[x].toNat / 10 % 10
        else if a = s.I.toNat + 2 then s.V[x].toNat % 10
        else (s.mem.read a).toNat) ∧
      t = { s with mem := t.mem, pc := s.pc + 2 }) ∧
    (s.I.toNat + 2 > 0xFFF → exec (.ldB x) s =
      .next { s with status := .faulted (.memoryOutOfRange (max s.I.toNat 0x1000)), stExpired := false })

/-- R164: registers `0 .. x` are stored from `I` up, every other byte reads as before; `I` is unchanged in the model
of record and `I + x + 1` with `LOAD_STORE_INCREMENTS_I` (the spec's decision D7); an access that leaves the memory
faults (D9). -/
def Obligations.RegisterDumpStoresFromI : Prop :=
  ∀ (x : Reg) (s : State) (p : Params), s.mem.wf = true →
    (s.I.toNat + x.val ≤ 0xFFF → ∃ t, exec (.ldMemVx x) s = .next t ∧
      (∀ i : Reg, i ≤ x → t.mem.read (s.I.toNat + i.val) = s.V[i]) ∧
      (∀ a, (a < s.I.toNat ∨ s.I.toNat + x.val < a) → t.mem.read a = s.mem.read a) ∧
      t = { s with mem := t.mem, pc := s.pc + 2 } ∧
      execWith p (.ldMemVx x) s = .next { t with
        I := if p.loadStoreIncrementsI then BitVec.ofNat 16 (s.I.toNat + x.val + 1) else s.I }) ∧
    (s.I.toNat + x.val > 0xFFF →
      exec (.ldMemVx x) s =
        .next { s with status := .faulted (.memoryOutOfRange (max s.I.toNat 0x1000)), stExpired := false } ∧
      execWith p (.ldMemVx x) s = exec (.ldMemVx x) s)

/-- R165: registers `0 .. x` are loaded from `I` up, the others and memory keep their values; `I` as in R164; an
access that leaves the memory faults. -/
def Obligations.RegisterLoadReadsFromI : Prop :=
  ∀ (x : Reg) (s : State) (p : Params),
    (s.I.toNat + x.val ≤ 0xFFF → ∃ t, exec (.ldVxMem x) s = .next t ∧
      (∀ i : Reg, t.V[i] = if i ≤ x then s.mem.read (s.I.toNat + i.val) else s.V[i]) ∧
      t = { s with V := t.V, pc := s.pc + 2 } ∧
      execWith p (.ldVxMem x) s = .next { t with
        I := if p.loadStoreIncrementsI then BitVec.ofNat 16 (s.I.toNat + x.val + 1) else s.I }) ∧
    (s.I.toNat + x.val > 0xFFF →
      exec (.ldVxMem x) s =
        .next { s with status := .faulted (.memoryOutOfRange (max s.I.toNat 0x1000)), stExpired := false } ∧
      execWith p (.ldVxMem x) s = exec (.ldVxMem x) s)

/-- R164: the byte at an address after the dump of `V[0] .. V[x]` from `I` up. -/
def Sys2Proof.Claims.byteAfterDump (s : State) (x : Reg) (a : Nat) : Byte :=
  if h : s.I.toNat ≤ a ∧ a ≤ s.I.toNat + x.val then s.V[a - s.I.toNat]'(by omega) else s.mem.read a

/-- R163: the byte at an address after the digits of `V[x]` are stored from `I` up. -/
def Sys2Proof.Claims.byteAfterBcd (s : State) (x : Reg) (a : Nat) : Byte :=
  if a = s.I.toNat then BitVec.ofNat 8 (s.V[x].toNat / 100)
  else if a = s.I.toNat + 1 then BitVec.ofNat 8 (s.V[x].toNat / 10 % 10)
  else if a = s.I.toNat + 2 then BitVec.ofNat 8 (s.V[x].toNat % 10)
  else s.mem.read a

/-- R60, R58: what a step stores with `Fx55` or `Fx33` is seen by the very next fetch, wherever the stores land: the
next step runs the word that stands after the stores at the address after the storing instruction, or takes
`IllegalInstruction` with that word where decode rejects it (R173). -/
def Obligations.StoredBytesAreFetchedByTheNextStep : Prop :=
  ∀ (x : Reg) (s t : State) (op : Word), s.status = .running → s.mem.wf = true → s.pc.toNat + 3 ≤ 0xFFF →
    step s = .next t →
    (decodeWord (s.mem.readWord s.pc.toNat) = .ok (.ldMemVx x) ∧ s.I.toNat + x.val ≤ 0xFFF ∧
        op = byteAfterDump s x (s.pc.toNat + 2) ++ byteAfterDump s x (s.pc.toNat + 3) ∨
      decodeWord (s.mem.readWord s.pc.toNat) = .ok (.ldB x) ∧ s.I.toNat + 2 ≤ 0xFFF ∧
        op = byteAfterBcd s x (s.pc.toNat + 2) ++ byteAfterBcd s x (s.pc.toNat + 3)) →
    (∀ i, decodeWord op = .ok i → step t = finish (exec i t)) ∧
    (∀ r, decodeWord op = .error r →
      step t = .next { t with status := .faulted (.illegalInstruction op), stExpired := false })

/-! ### Reset, end of a run, host (spec/70_reset_and_hazards.md, spec/10_state.md) -/

/-- R190, R33: `Reset(rom)` fixes every piece of state, for every font table; a longer ROM fails. The divider and the
status are the spec's decisions D13 and D12. Two clauses are not R190's: that `st_expired` is 0 is R184 (a field by log
5), and that memory is in canonical form is the model's choice (log 7, DESIGN CHOICE). -/
def Obligations.ResetFixesEveryPieceOfState : Prop :=
  ∀ (p : Params) (rom : List Byte),
    (rom.length ≤ 3584 → ∃ t, bootWith p rom = .ok t ∧
      (∀ (a : Nat) (h : a < 80), t.mem.read a = p.fontTable[a]) ∧
      (∀ a, 80 ≤ a → a < 0x200 → t.mem.read a = 0) ∧
      (∀ (k : Nat) (h : k < rom.length), t.mem.read (0x200 + k) = rom[k]) ∧
      (∀ a, 0x200 + rom.length ≤ a → a < 0x1000 → t.mem.read a = 0) ∧
      (∀ r : Reg, t.V[r] = 0) ∧ t.I = 0 ∧ t.pc = 0x200 ∧ t.sp = 0 ∧ (∀ k : Fin 16, t.stack[k] = 0) ∧
      t.DT = 0 ∧ t.ST = 0 ∧ (∀ k : Reg, t.key.getLsbD k = false) ∧
      (∀ (x : Fin 64) (y : Fin 32), pixel t.fb x y = false) ∧ t.redraw = false ∧ t.div = 0 ∧ t.status = .running ∧
      t.stExpired = false ∧ t.mem.wf = true) ∧
    (3584 < rom.length → bootWith p rom = .error (.romLoadError (.romTooLarge rom.length)))

/-- R190, R191, R170: after `Reset(rom)` the first step runs the instruction whose two bytes the ROM begins with. -/
def Obligations.FirstStepRunsTheRomsFirstInstruction : Prop :=
  ∀ (i : Instr) (rest : List Byte), i.wellFormed = true → rest.length ≤ 3582 →
    ∃ s, boot (encodeBytes i ++ rest) = .ok s ∧ s.pc = 0x200 ∧ step s = finish (exec i s)

/-- R191: a ROM of 0 bytes is accepted and the first step faults with `IllegalInstruction(0x0000)`. -/
def Obligations.EmptyRomFaultsAtOnce : Prop :=
  boot [] = .ok State.reset ∧
    step State.reset = .next { State.reset with status := .faulted (.illegalInstruction 0x0000) }

/-- R193, R190: `Reset` fails exactly for a ROM of more than 3584 bytes (the spec's decision D18), and a failed `Reset`
leaves the block with no state and no step until another `Reset`. That `SetKey` and `AckRedraw` leave such a block with
no state is the model's inference (log 18, DEDUCED). -/
def Obligations.FailedResetLeavesNoState : Prop :=
  ∀ (b : Block) (rom : List Byte) (as : List HostAction),
    (rom.length ≤ 3584 → ∃ s, Block.act b (.reset rom) = some s ∧ boot rom = .ok s) ∧
    (rom.length > 3584 → boot rom = .error (.romLoadError (.romTooLarge rom.length)) ∧
      ((∀ a ∈ as, ∀ r, a ≠ .reset r) → Block.acts b (.reset rom :: as) = none))

/-- R199 (the spec's decision D23): at a jump to itself a step changes nothing but the divider, the timers and
`st_expired`, and the block is there again. -/
def Obligations.SelfJumpOnlyRunsTheTimers : Prop :=
  ∀ s : State, s.ended → ∃ t, step s = .next t ∧ t.ended ∧
    t = { s with div := t.div, DT := t.DT, ST := t.ST, stExpired := t.stExpired }

/-- R34, R61, R187, R181 (the spec's decisions D1, D14): what each of the host's outputs says, in every state and after
every step, and what the host's two inputs do to a running block. What they do to a faulted block is
`FaultIsPreciseAndTerminal`. That a step never clears `redraw` is R28 (decision D26, log 22). -/
def Obligations.HostInputsAndOutputs : Prop :=
  ∀ (s : State) (k j : Reg) (b : Bool),
    ((∀ (x : Fin 64) (y : Fin 32), s.fbOut x y = pixel s.fb x y) ∧
      s.redrawOut = s.redraw ∧
      (s.soundActive = true ↔ s.ST.toNat ≠ 0) ∧
      s.statusOut = s.status) ∧
    (s.status = .running →
      (∃ t, Block.act (some s) (.setKey k b) = some t ∧
        t.key.getLsbD j = (if j = k then b else s.key.getLsbD j) ∧ t = { s with key := t.key }) ∧
      Block.act (some s) .ackRedraw = some { s with redraw := false } ∧
      (∀ t, step s = .next t → Block.act (some s) .step = some t ∧ t.key = s.key ∧
        (s.redrawOut = true → t.redrawOut = true) ∧
        (∀ e, t.statusOut = .faulted e ↔ stepFault s = some e) ∧
        (t.stExpiredOut = true ↔ ∃ i u, s.pc.toNat ≤ 0xFFE ∧ decodeWord (s.mem.readWord s.pc.toNat) = .ok i ∧
          exec i s = .next u ∧ u.status = .running ∧ u.div.val = 9 ∧ u.ST.toNat = 1)))
end

