-- ==== Sys2Proof/Laws/State.lean ====
section
/-! SUPPORT. One lemma per field per named update of the state, so that no proof unfolds a record update. -/

namespace Sys2Proof.Machine.State

/-! ### `writeV` -/

@[simp] theorem writeV_V (s : State) (x : Reg) (v : Byte) : (s.writeV x v).V = s.V.set x v := rfl
@[simp] theorem writeV_I (s : State) (x : Reg) (v : Byte) : (s.writeV x v).I = s.I := rfl
@[simp] theorem writeV_pc (s : State) (x : Reg) (v : Byte) : (s.writeV x v).pc = s.pc := rfl
@[simp] theorem writeV_sp (s : State) (x : Reg) (v : Byte) : (s.writeV x v).sp = s.sp := rfl
@[simp] theorem writeV_stack (s : State) (x : Reg) (v : Byte) : (s.writeV x v).stack = s.stack := rfl
@[simp] theorem writeV_DT (s : State) (x : Reg) (v : Byte) : (s.writeV x v).DT = s.DT := rfl
@[simp] theorem writeV_ST (s : State) (x : Reg) (v : Byte) : (s.writeV x v).ST = s.ST := rfl
@[simp] theorem writeV_key (s : State) (x : Reg) (v : Byte) : (s.writeV x v).key = s.key := rfl
@[simp] theorem writeV_fb (s : State) (x : Reg) (v : Byte) : (s.writeV x v).fb = s.fb := rfl
@[simp] theorem writeV_redraw (s : State) (x : Reg) (v : Byte) : (s.writeV x v).redraw = s.redraw := rfl
@[simp] theorem writeV_div (s : State) (x : Reg) (v : Byte) : (s.writeV x v).div = s.div := rfl
@[simp] theorem writeV_status (s : State) (x : Reg) (v : Byte) : (s.writeV x v).status = s.status := rfl
@[simp] theorem writeV_mem (s : State) (x : Reg) (v : Byte) : (s.writeV x v).mem = s.mem := rfl
@[simp] theorem writeV_stExpired (s : State) (x : Reg) (v : Byte) : (s.writeV x v).stExpired = s.stExpired := rfl
@[simp] theorem writeV_draws (s : State) (x : Reg) (v : Byte) : (s.writeV x v).draws = s.draws := rfl

/-! ### `setFlag` -/

@[simp] theorem setFlag_V (s : State) (f : Bool) : (s.setFlag f).V = s.V.set Config.flagReg (if f then 1 else 0) := rfl
@[simp] theorem setFlag_I (s : State) (f : Bool) : (s.setFlag f).I = s.I := rfl
@[simp] theorem setFlag_pc (s : State) (f : Bool) : (s.setFlag f).pc = s.pc := rfl
@[simp] theorem setFlag_sp (s : State) (f : Bool) : (s.setFlag f).sp = s.sp := rfl
@[simp] theorem setFlag_stack (s : State) (f : Bool) : (s.setFlag f).stack = s.stack := rfl
@[simp] theorem setFlag_DT (s : State) (f : Bool) : (s.setFlag f).DT = s.DT := rfl
@[simp] theorem setFlag_ST (s : State) (f : Bool) : (s.setFlag f).ST = s.ST := rfl
@[simp] theorem setFlag_key (s : State) (f : Bool) : (s.setFlag f).key = s.key := rfl
@[simp] theorem setFlag_fb (s : State) (f : Bool) : (s.setFlag f).fb = s.fb := rfl
@[simp] theorem setFlag_redraw (s : State) (f : Bool) : (s.setFlag f).redraw = s.redraw := rfl
@[simp] theorem setFlag_div (s : State) (f : Bool) : (s.setFlag f).div = s.div := rfl
@[simp] theorem setFlag_status (s : State) (f : Bool) : (s.setFlag f).status = s.status := rfl
@[simp] theorem setFlag_mem (s : State) (f : Bool) : (s.setFlag f).mem = s.mem := rfl
@[simp] theorem setFlag_stExpired (s : State) (f : Bool) : (s.setFlag f).stExpired = s.stExpired := rfl
@[simp] theorem setFlag_draws (s : State) (f : Bool) : (s.setFlag f).draws = s.draws := rfl

/-! ### `setI` -/

@[simp] theorem setI_V (s : State) (a : Word) : (s.setI a).V = s.V := rfl
@[simp] theorem setI_I (s : State) (a : Word) : (s.setI a).I = a := rfl
@[simp] theorem setI_pc (s : State) (a : Word) : (s.setI a).pc = s.pc := rfl
@[simp] theorem setI_sp (s : State) (a : Word) : (s.setI a).sp = s.sp := rfl
@[simp] theorem setI_stack (s : State) (a : Word) : (s.setI a).stack = s.stack := rfl
@[simp] theorem setI_DT (s : State) (a : Word) : (s.setI a).DT = s.DT := rfl
@[simp] theorem setI_ST (s : State) (a : Word) : (s.setI a).ST = s.ST := rfl
@[simp] theorem setI_key (s : State) (a : Word) : (s.setI a).key = s.key := rfl
@[simp] theorem setI_fb (s : State) (a : Word) : (s.setI a).fb = s.fb := rfl
@[simp] theorem setI_redraw (s : State) (a : Word) : (s.setI a).redraw = s.redraw := rfl
@[simp] theorem setI_div (s : State) (a : Word) : (s.setI a).div = s.div := rfl
@[simp] theorem setI_status (s : State) (a : Word) : (s.setI a).status = s.status := rfl
@[simp] theorem setI_mem (s : State) (a : Word) : (s.setI a).mem = s.mem := rfl
@[simp] theorem setI_stExpired (s : State) (a : Word) : (s.setI a).stExpired = s.stExpired := rfl
@[simp] theorem setI_draws (s : State) (a : Word) : (s.setI a).draws = s.draws := rfl

/-! ### `setPc` -/

@[simp] theorem setPc_V (s : State) (a : Word) : (s.setPc a).V = s.V := rfl
@[simp] theorem setPc_I (s : State) (a : Word) : (s.setPc a).I = s.I := rfl
@[simp] theorem setPc_pc (s : State) (a : Word) : (s.setPc a).pc = a := rfl
@[simp] theorem setPc_sp (s : State) (a : Word) : (s.setPc a).sp = s.sp := rfl
@[simp] theorem setPc_stack (s : State) (a : Word) : (s.setPc a).stack = s.stack := rfl
@[simp] theorem setPc_DT (s : State) (a : Word) : (s.setPc a).DT = s.DT := rfl
@[simp] theorem setPc_ST (s : State) (a : Word) : (s.setPc a).ST = s.ST := rfl
@[simp] theorem setPc_key (s : State) (a : Word) : (s.setPc a).key = s.key := rfl
@[simp] theorem setPc_fb (s : State) (a : Word) : (s.setPc a).fb = s.fb := rfl
@[simp] theorem setPc_redraw (s : State) (a : Word) : (s.setPc a).redraw = s.redraw := rfl
@[simp] theorem setPc_div (s : State) (a : Word) : (s.setPc a).div = s.div := rfl
@[simp] theorem setPc_status (s : State) (a : Word) : (s.setPc a).status = s.status := rfl
@[simp] theorem setPc_mem (s : State) (a : Word) : (s.setPc a).mem = s.mem := rfl
@[simp] theorem setPc_stExpired (s : State) (a : Word) : (s.setPc a).stExpired = s.stExpired := rfl
@[simp] theorem setPc_draws (s : State) (a : Word) : (s.setPc a).draws = s.draws := rfl

/-! ### `advance` -/

@[simp] theorem advance_V (s : State) : (s.advance).V = s.V := rfl
@[simp] theorem advance_I (s : State) : (s.advance).I = s.I := rfl
@[simp] theorem advance_pc (s : State) : (s.advance).pc = s.pc + 2 := rfl
@[simp] theorem advance_sp (s : State) : (s.advance).sp = s.sp := rfl
@[simp] theorem advance_stack (s : State) : (s.advance).stack = s.stack := rfl
@[simp] theorem advance_DT (s : State) : (s.advance).DT = s.DT := rfl
@[simp] theorem advance_ST (s : State) : (s.advance).ST = s.ST := rfl
@[simp] theorem advance_key (s : State) : (s.advance).key = s.key := rfl
@[simp] theorem advance_fb (s : State) : (s.advance).fb = s.fb := rfl
@[simp] theorem advance_redraw (s : State) : (s.advance).redraw = s.redraw := rfl
@[simp] theorem advance_div (s : State) : (s.advance).div = s.div := rfl
@[simp] theorem advance_status (s : State) : (s.advance).status = s.status := rfl
@[simp] theorem advance_mem (s : State) : (s.advance).mem = s.mem := rfl
@[simp] theorem advance_stExpired (s : State) : (s.advance).stExpired = s.stExpired := rfl
@[simp] theorem advance_draws (s : State) : (s.advance).draws = s.draws := rfl

/-! ### `skipIf` -/

@[simp] theorem skipIf_V (s : State) (c : Bool) : (s.skipIf c).V = s.V := rfl
@[simp] theorem skipIf_I (s : State) (c : Bool) : (s.skipIf c).I = s.I := rfl
@[simp] theorem skipIf_pc (s : State) (c : Bool) : (s.skipIf c).pc = if c then s.pc + 4 else s.pc + 2 := rfl
@[simp] theorem skipIf_sp (s : State) (c : Bool) : (s.skipIf c).sp = s.sp := rfl
@[simp] theorem skipIf_stack (s : State) (c : Bool) : (s.skipIf c).stack = s.stack := rfl
@[simp] theorem skipIf_DT (s : State) (c : Bool) : (s.skipIf c).DT = s.DT := rfl
@[simp] theorem skipIf_ST (s : State) (c : Bool) : (s.skipIf c).ST = s.ST := rfl
@[simp] theorem skipIf_key (s : State) (c : Bool) : (s.skipIf c).key = s.key := rfl
@[simp] theorem skipIf_fb (s : State) (c : Bool) : (s.skipIf c).fb = s.fb := rfl
@[simp] theorem skipIf_redraw (s : State) (c : Bool) : (s.skipIf c).redraw = s.redraw := rfl
@[simp] theorem skipIf_div (s : State) (c : Bool) : (s.skipIf c).div = s.div := rfl
@[simp] theorem skipIf_status (s : State) (c : Bool) : (s.skipIf c).status = s.status := rfl
@[simp] theorem skipIf_mem (s : State) (c : Bool) : (s.skipIf c).mem = s.mem := rfl
@[simp] theorem skipIf_stExpired (s : State) (c : Bool) : (s.skipIf c).stExpired = s.stExpired := rfl
@[simp] theorem skipIf_draws (s : State) (c : Bool) : (s.skipIf c).draws = s.draws := rfl

/-! ### `setDT` -/

@[simp] theorem setDT_V (s : State) (v : Byte) : (s.setDT v).V = s.V := rfl
@[simp] theorem setDT_I (s : State) (v : Byte) : (s.setDT v).I = s.I := rfl
@[simp] theorem setDT_pc (s : State) (v : Byte) : (s.setDT v).pc = s.pc := rfl
@[simp] theorem setDT_sp (s : State) (v : Byte) : (s.setDT v).sp = s.sp := rfl
@[simp] theorem setDT_stack (s : State) (v : Byte) : (s.setDT v).stack = s.stack := rfl
@[simp] theorem setDT_DT (s : State) (v : Byte) : (s.setDT v).DT = v := rfl
@[simp] theorem setDT_ST (s : State) (v : Byte) : (s.setDT v).ST = s.ST := rfl
@[simp] theorem setDT_key (s : State) (v : Byte) : (s.setDT v).key = s.key := rfl
@[simp] theorem setDT_fb (s : State) (v : Byte) : (s.setDT v).fb = s.fb := rfl
@[simp] theorem setDT_redraw (s : State) (v : Byte) : (s.setDT v).redraw = s.redraw := rfl
@[simp] theorem setDT_div (s : State) (v : Byte) : (s.setDT v).div = s.div := rfl
@[simp] theorem setDT_status (s : State) (v : Byte) : (s.setDT v).status = s.status := rfl
@[simp] theorem setDT_mem (s : State) (v : Byte) : (s.setDT v).mem = s.mem := rfl
@[simp] theorem setDT_stExpired (s : State) (v : Byte) : (s.setDT v).stExpired = s.stExpired := rfl
@[simp] theorem setDT_draws (s : State) (v : Byte) : (s.setDT v).draws = s.draws := rfl

/-! ### `setST` -/

@[simp] theorem setST_V (s : State) (v : Byte) : (s.setST v).V = s.V := rfl
@[simp] theorem setST_I (s : State) (v : Byte) : (s.setST v).I = s.I := rfl
@[simp] theorem setST_pc (s : State) (v : Byte) : (s.setST v).pc = s.pc := rfl
@[simp] theorem setST_sp (s : State) (v : Byte) : (s.setST v).sp = s.sp := rfl
@[simp] theorem setST_stack (s : State) (v : Byte) : (s.setST v).stack = s.stack := rfl
@[simp] theorem setST_DT (s : State) (v : Byte) : (s.setST v).DT = s.DT := rfl
@[simp] theorem setST_ST (s : State) (v : Byte) : (s.setST v).ST = v := rfl
@[simp] theorem setST_key (s : State) (v : Byte) : (s.setST v).key = s.key := rfl
@[simp] theorem setST_fb (s : State) (v : Byte) : (s.setST v).fb = s.fb := rfl
@[simp] theorem setST_redraw (s : State) (v : Byte) : (s.setST v).redraw = s.redraw := rfl
@[simp] theorem setST_div (s : State) (v : Byte) : (s.setST v).div = s.div := rfl
@[simp] theorem setST_status (s : State) (v : Byte) : (s.setST v).status = s.status := rfl
@[simp] theorem setST_mem (s : State) (v : Byte) : (s.setST v).mem = s.mem := rfl
@[simp] theorem setST_stExpired (s : State) (v : Byte) : (s.setST v).stExpired = s.stExpired := rfl
@[simp] theorem setST_draws (s : State) (v : Byte) : (s.setST v).draws = s.draws := rfl

/-! ### `storeAtI` -/

@[simp] theorem storeAtI_V (s : State) (bs : List Byte) : (s.storeAtI bs).V = s.V := rfl
@[simp] theorem storeAtI_I (s : State) (bs : List Byte) : (s.storeAtI bs).I = s.I := rfl
@[simp] theorem storeAtI_pc (s : State) (bs : List Byte) : (s.storeAtI bs).pc = s.pc := rfl
@[simp] theorem storeAtI_sp (s : State) (bs : List Byte) : (s.storeAtI bs).sp = s.sp := rfl
@[simp] theorem storeAtI_stack (s : State) (bs : List Byte) : (s.storeAtI bs).stack = s.stack := rfl
@[simp] theorem storeAtI_DT (s : State) (bs : List Byte) : (s.storeAtI bs).DT = s.DT := rfl
@[simp] theorem storeAtI_ST (s : State) (bs : List Byte) : (s.storeAtI bs).ST = s.ST := rfl
@[simp] theorem storeAtI_key (s : State) (bs : List Byte) : (s.storeAtI bs).key = s.key := rfl
@[simp] theorem storeAtI_fb (s : State) (bs : List Byte) : (s.storeAtI bs).fb = s.fb := rfl
@[simp] theorem storeAtI_redraw (s : State) (bs : List Byte) : (s.storeAtI bs).redraw = s.redraw := rfl
@[simp] theorem storeAtI_div (s : State) (bs : List Byte) : (s.storeAtI bs).div = s.div := rfl
@[simp] theorem storeAtI_status (s : State) (bs : List Byte) : (s.storeAtI bs).status = s.status := rfl
@[simp] theorem storeAtI_mem (s : State) (bs : List Byte) : (s.storeAtI bs).mem = s.mem.writeBytes s.I.toNat bs := rfl
@[simp] theorem storeAtI_stExpired (s : State) (bs : List Byte) : (s.storeAtI bs).stExpired = s.stExpired := rfl
@[simp] theorem storeAtI_draws (s : State) (bs : List Byte) : (s.storeAtI bs).draws = s.draws := rfl

/-! ### `loadFromI` -/

@[simp] theorem loadFromI_V (s : State) (x : Reg) : (s.loadFromI x).V = s.loadedV s.I.toNat x := rfl
@[simp] theorem loadFromI_I (s : State) (x : Reg) : (s.loadFromI x).I = s.I := rfl
@[simp] theorem loadFromI_pc (s : State) (x : Reg) : (s.loadFromI x).pc = s.pc := rfl
@[simp] theorem loadFromI_sp (s : State) (x : Reg) : (s.loadFromI x).sp = s.sp := rfl
@[simp] theorem loadFromI_stack (s : State) (x : Reg) : (s.loadFromI x).stack = s.stack := rfl
@[simp] theorem loadFromI_DT (s : State) (x : Reg) : (s.loadFromI x).DT = s.DT := rfl
@[simp] theorem loadFromI_ST (s : State) (x : Reg) : (s.loadFromI x).ST = s.ST := rfl
@[simp] theorem loadFromI_key (s : State) (x : Reg) : (s.loadFromI x).key = s.key := rfl
@[simp] theorem loadFromI_fb (s : State) (x : Reg) : (s.loadFromI x).fb = s.fb := rfl
@[simp] theorem loadFromI_redraw (s : State) (x : Reg) : (s.loadFromI x).redraw = s.redraw := rfl
@[simp] theorem loadFromI_div (s : State) (x : Reg) : (s.loadFromI x).div = s.div := rfl
@[simp] theorem loadFromI_status (s : State) (x : Reg) : (s.loadFromI x).status = s.status := rfl
@[simp] theorem loadFromI_mem (s : State) (x : Reg) : (s.loadFromI x).mem = s.mem := rfl
@[simp] theorem loadFromI_stExpired (s : State) (x : Reg) : (s.loadFromI x).stExpired = s.stExpired := rfl
@[simp] theorem loadFromI_draws (s : State) (x : Reg) : (s.loadFromI x).draws = s.draws := rfl

/-! ### `countDraw` -/

@[simp] theorem countDraw_V (s : State) : (s.countDraw).V = s.V := rfl
@[simp] theorem countDraw_I (s : State) : (s.countDraw).I = s.I := rfl
@[simp] theorem countDraw_pc (s : State) : (s.countDraw).pc = s.pc := rfl
@[simp] theorem countDraw_sp (s : State) : (s.countDraw).sp = s.sp := rfl
@[simp] theorem countDraw_stack (s : State) : (s.countDraw).stack = s.stack := rfl
@[simp] theorem countDraw_DT (s : State) : (s.countDraw).DT = s.DT := rfl
@[simp] theorem countDraw_ST (s : State) : (s.countDraw).ST = s.ST := rfl
@[simp] theorem countDraw_key (s : State) : (s.countDraw).key = s.key := rfl
@[simp] theorem countDraw_fb (s : State) : (s.countDraw).fb = s.fb := rfl
@[simp] theorem countDraw_redraw (s : State) : (s.countDraw).redraw = s.redraw := rfl
@[simp] theorem countDraw_div (s : State) : (s.countDraw).div = s.div := rfl
@[simp] theorem countDraw_status (s : State) : (s.countDraw).status = s.status := rfl
@[simp] theorem countDraw_mem (s : State) : (s.countDraw).mem = s.mem := rfl
@[simp] theorem countDraw_stExpired (s : State) : (s.countDraw).stExpired = s.stExpired := rfl
@[simp] theorem countDraw_draws (s : State) : (s.countDraw).draws = s.draws + 1 := rfl

/-! ### `push` -/

@[simp] theorem push_V (s : State) (h : s.sp.val < 16) : (s.push h).V = s.V := rfl
@[simp] theorem push_I (s : State) (h : s.sp.val < 16) : (s.push h).I = s.I := rfl
@[simp] theorem push_pc (s : State) (h : s.sp.val < 16) : (s.push h).pc = s.pc := rfl
@[simp] theorem push_sp (s : State) (h : s.sp.val < 16) : (s.push h).sp = ⟨s.sp.val + 1, by omega⟩ := rfl
@[simp] theorem push_stack (s : State) (h : s.sp.val < 16) : (s.push h).stack = s.stack.set s.sp.val s.pc := rfl
@[simp] theorem push_DT (s : State) (h : s.sp.val < 16) : (s.push h).DT = s.DT := rfl
@[simp] theorem push_ST (s : State) (h : s.sp.val < 16) : (s.push h).ST = s.ST := rfl
@[simp] theorem push_key (s : State) (h : s.sp.val < 16) : (s.push h).key = s.key := rfl
@[simp] theorem push_fb (s : State) (h : s.sp.val < 16) : (s.push h).fb = s.fb := rfl
@[simp] theorem push_redraw (s : State) (h : s.sp.val < 16) : (s.push h).redraw = s.redraw := rfl
@[simp] theorem push_div (s : State) (h : s.sp.val < 16) : (s.push h).div = s.div := rfl
@[simp] theorem push_status (s : State) (h : s.sp.val < 16) : (s.push h).status = s.status := rfl
@[simp] theorem push_mem (s : State) (h : s.sp.val < 16) : (s.push h).mem = s.mem := rfl
@[simp] theorem push_stExpired (s : State) (h : s.sp.val < 16) : (s.push h).stExpired = s.stExpired := rfl
@[simp] theorem push_draws (s : State) (h : s.sp.val < 16) : (s.push h).draws = s.draws := rfl

/-! ### `pop` -/

@[simp] theorem pop_V (s : State) : (s.pop).V = s.V := rfl
@[simp] theorem pop_I (s : State) : (s.pop).I = s.I := rfl
@[simp] theorem pop_pc (s : State) : (s.pop).pc = s.pc := rfl
@[simp] theorem pop_sp (s : State) : (s.pop).sp = ⟨s.sp.val - 1, by omega⟩ := rfl
@[simp] theorem pop_stack (s : State) : (s.pop).stack = s.stack := rfl
@[simp] theorem pop_DT (s : State) : (s.pop).DT = s.DT := rfl
@[simp] theorem pop_ST (s : State) : (s.pop).ST = s.ST := rfl
@[simp] theorem pop_key (s : State) : (s.pop).key = s.key := rfl
@[simp] theorem pop_fb (s : State) : (s.pop).fb = s.fb := rfl
@[simp] theorem pop_redraw (s : State) : (s.pop).redraw = s.redraw := rfl
@[simp] theorem pop_div (s : State) : (s.pop).div = s.div := rfl
@[simp] theorem pop_status (s : State) : (s.pop).status = s.status := rfl
@[simp] theorem pop_mem (s : State) : (s.pop).mem = s.mem := rfl
@[simp] theorem pop_stExpired (s : State) : (s.pop).stExpired = s.stExpired := rfl
@[simp] theorem pop_draws (s : State) : (s.pop).draws = s.draws := rfl

/-! ### `paint` -/

@[simp] theorem paint_V (s : State) (b : Framebuffer) : (s.paint b).V = s.V := rfl
@[simp] theorem paint_I (s : State) (b : Framebuffer) : (s.paint b).I = s.I := rfl
@[simp] theorem paint_pc (s : State) (b : Framebuffer) : (s.paint b).pc = s.pc := rfl
@[simp] theorem paint_sp (s : State) (b : Framebuffer) : (s.paint b).sp = s.sp := rfl
@[simp] theorem paint_stack (s : State) (b : Framebuffer) : (s.paint b).stack = s.stack := rfl
@[simp] theorem paint_DT (s : State) (b : Framebuffer) : (s.paint b).DT = s.DT := rfl
@[simp] theorem paint_ST (s : State) (b : Framebuffer) : (s.paint b).ST = s.ST := rfl
@[simp] theorem paint_key (s : State) (b : Framebuffer) : (s.paint b).key = s.key := rfl
@[simp] theorem paint_fb (s : State) (b : Framebuffer) : (s.paint b).fb = b := rfl
@[simp] theorem paint_redraw (s : State) (b : Framebuffer) : (s.paint b).redraw = true := rfl
@[simp] theorem paint_div (s : State) (b : Framebuffer) : (s.paint b).div = s.div := rfl
@[simp] theorem paint_status (s : State) (b : Framebuffer) : (s.paint b).status = s.status := rfl
@[simp] theorem paint_mem (s : State) (b : Framebuffer) : (s.paint b).mem = s.mem := rfl
@[simp] theorem paint_stExpired (s : State) (b : Framebuffer) : (s.paint b).stExpired = s.stExpired := rfl
@[simp] theorem paint_draws (s : State) (b : Framebuffer) : (s.paint b).draws = s.draws := rfl

/-! ### `raise` -/

@[simp] theorem raise_V (s : State) (e : Exc) : (s.raise e).V = s.V := rfl
@[simp] theorem raise_I (s : State) (e : Exc) : (s.raise e).I = s.I := rfl
@[simp] theorem raise_pc (s : State) (e : Exc) : (s.raise e).pc = s.pc := rfl
@[simp] theorem raise_sp (s : State) (e : Exc) : (s.raise e).sp = s.sp := rfl
@[simp] theorem raise_stack (s : State) (e : Exc) : (s.raise e).stack = s.stack := rfl
@[simp] theorem raise_DT (s : State) (e : Exc) : (s.raise e).DT = s.DT := rfl
@[simp] theorem raise_ST (s : State) (e : Exc) : (s.raise e).ST = s.ST := rfl
@[simp] theorem raise_key (s : State) (e : Exc) : (s.raise e).key = s.key := rfl
@[simp] theorem raise_fb (s : State) (e : Exc) : (s.raise e).fb = s.fb := rfl
@[simp] theorem raise_redraw (s : State) (e : Exc) : (s.raise e).redraw = s.redraw := rfl
@[simp] theorem raise_div (s : State) (e : Exc) : (s.raise e).div = s.div := rfl
@[simp] theorem raise_status (s : State) (e : Exc) : (s.raise e).status = .faulted e := rfl
@[simp] theorem raise_mem (s : State) (e : Exc) : (s.raise e).mem = s.mem := rfl
@[simp] theorem raise_stExpired (s : State) (e : Exc) : (s.raise e).stExpired = false := rfl
@[simp] theorem raise_draws (s : State) (e : Exc) : (s.raise e).draws = s.draws := rfl

/-! ### `writeFlagged` -/

@[simp] theorem writeFlagged_V (s : State) (x : Reg) (r : FlaggedByte) : (s.writeFlagged x r).V = (s.V.set x r.value).set Config.flagReg (if r.flag then 1 else 0) := rfl
@[simp] theorem writeFlagged_I (s : State) (x : Reg) (r : FlaggedByte) : (s.writeFlagged x r).I = s.I := rfl
@[simp] theorem writeFlagged_pc (s : State) (x : Reg) (r : FlaggedByte) : (s.writeFlagged x r).pc = s.pc := rfl
@[simp] theorem writeFlagged_sp (s : State) (x : Reg) (r : FlaggedByte) : (s.writeFlagged x r).sp = s.sp := rfl
@[simp] theorem writeFlagged_stack (s : State) (x : Reg) (r : FlaggedByte) : (s.writeFlagged x r).stack = s.stack := rfl
@[simp] theorem writeFlagged_DT (s : State) (x : Reg) (r : FlaggedByte) : (s.writeFlagged x r).DT = s.DT := rfl
@[simp] theorem writeFlagged_ST (s : State) (x : Reg) (r : FlaggedByte) : (s.writeFlagged x r).ST = s.ST := rfl
@[simp] theorem writeFlagged_key (s : State) (x : Reg) (r : FlaggedByte) : (s.writeFlagged x r).key = s.key := rfl
@[simp] theorem writeFlagged_fb (s : State) (x : Reg) (r : FlaggedByte) : (s.writeFlagged x r).fb = s.fb := rfl
@[simp] theorem writeFlagged_redraw (s : State) (x : Reg) (r : FlaggedByte) : (s.writeFlagged x r).redraw = s.redraw := rfl
@[simp] theorem writeFlagged_div (s : State) (x : Reg) (r : FlaggedByte) : (s.writeFlagged x r).div = s.div := rfl
@[simp] theorem writeFlagged_status (s : State) (x : Reg) (r : FlaggedByte) : (s.writeFlagged x r).status = s.status := rfl
@[simp] theorem writeFlagged_mem (s : State) (x : Reg) (r : FlaggedByte) : (s.writeFlagged x r).mem = s.mem := rfl
@[simp] theorem writeFlagged_stExpired (s : State) (x : Reg) (r : FlaggedByte) : (s.writeFlagged x r).stExpired = s.stExpired := rfl
@[simp] theorem writeFlagged_draws (s : State) (x : Reg) (r : FlaggedByte) : (s.writeFlagged x r).draws = s.draws := rfl

end Sys2Proof.Machine.State
end

