-- ==== Sys2Proof/Laws/Ops.lean ====
section
/-! SUPPORT. What each shared operation over registers, stack, checks and exceptions can do, said once. -/

namespace Sys2Proof.Machine

/-! ### Registers -/

@[simp] theorem State.readV_eq (s : State) (x : Reg) : s.readV x = s.V[x] := rfl

theorem Vector_set_get {α : Type} {n : Nat} (v : Vector α n) (i j : Fin n) (a : α) :
    (v.set i a)[j] = if j = i then a else v[j] := by
  simp [Vector.getElem_set, Fin.ext_iff, eq_comm]

/-- The registers after a write. -/
theorem State.writeV_get (s : State) (x r : Reg) (v : Byte) :
    (s.writeV x v).V[r] = if r = x then v else s.V[r] :=
  Vector_set_get s.V x r v

/-- The registers after a flag write. -/
theorem State.setFlag_get (s : State) (f : Bool) (r : Reg) :
    (s.setFlag f).V[r] = if r = 15 then (if f then 1 else 0) else s.V[r] :=
  Vector_set_get s.V 15 r _

/-- The registers after a result and then its flag: with `x = 15` the flag is what stays (R135). -/
theorem State.writeFlagged_get (s : State) (x r : Reg) (b : FlaggedByte) :
    (s.writeFlagged x b).V[r] = if r = 15 then (if b.flag then 1 else 0) else if r = x then b.value else s.V[r] := by
  rw [State.writeFlagged, State.setFlag_get, State.writeV_get]

/-- The registers after loading `V[0] .. V[x]` (R165). -/
theorem State.loadedV_get (s : State) (base : Nat) (x r : Reg) :
    (s.loadedV base x)[r] = if r ≤ x then s.mem.read (base + r) else s.V[r] := by
  have fold : ∀ (l : List Reg) (V : Vector Byte 16),
      (l.foldl (fun V i => if i ≤ x then V.set i (s.mem.read (base + i)) else V) V)[r] =
        if r ∈ l ∧ r ≤ x then s.mem.read (base + r) else V[r] := by
    intro l
    induction l with
    | nil => intro V; simp
    | cons i l ih =>
      intro V
      rw [List.foldl_cons, ih]
      by_cases hl : r ∈ l ∧ r ≤ x
      · rw [if_pos hl, if_pos ⟨List.mem_cons_of_mem _ hl.1, hl.2⟩]
      · rw [if_neg hl]
        by_cases hix : i ≤ x
        · rw [if_pos hix, Vector_set_get]
          by_cases hri : r = i
          · subst r
            rw [if_pos rfl, if_pos ⟨List.mem_cons_self, hix⟩]
          · rw [if_neg hri, if_neg fun hm => hl ⟨(List.mem_cons.1 hm.1).resolve_left hri, hm.2⟩]
        · rw [if_neg hix, if_neg]
          rintro ⟨hm, hx⟩
          rcases List.mem_cons.1 hm with rfl | hm
          · exact hix hx
          · exact hl ⟨hm, hx⟩
  rw [State.loadedV, fold]
  simp

/-! ### The keypad (R152) -/

/-- The key wait's scan finds the least pressed key. -/
theorem State.leastPressed_eq_some {s : State} {k : Reg} :
    s.leastPressed = some k ↔ s.readKey k = true ∧ ∀ j : Reg, j < k → s.readKey j = false := by
  have sorted : (List.finRange 16).Pairwise (· < ·) := by decide
  constructor
  · intro h
    obtain ⟨hk, as, bs, hl, hall⟩ := List.find?_eq_some_iff_append.1 h
    refine ⟨hk, fun j hj => ?_⟩
    have hmem : j ∈ as ++ k :: bs := hl ▸ List.mem_finRange j
    rw [hl, List.pairwise_append] at sorted
    rcases List.mem_append.1 hmem with hm | hm
    · simpa using hall j hm
    · rcases List.mem_cons.1 hm with rfl | hm
      · exact absurd hj (lt_irrefl _)
      · exact absurd ((List.pairwise_cons.1 sorted.2.1).1 j hm) (not_lt.2 hj.le)
  · rintro ⟨hk, hall⟩
    cases h : s.leastPressed with
    | none => exact absurd hk (List.find?_eq_none.1 h k (List.mem_finRange k))
    | some j =>
      obtain ⟨hj, as, bs, hl, hall'⟩ := List.find?_eq_some_iff_append.1 h
      have hmem : k ∈ as ++ j :: bs := hl ▸ List.mem_finRange k
      rw [hl, List.pairwise_append] at sorted
      rcases List.mem_append.1 hmem with hm | hm
      · exact absurd hk (by simpa using hall' k hm)
      · rcases List.mem_cons.1 hm with rfl | hm
        · rfl
        · have hlt := (List.pairwise_cons.1 sorted.2.1).1 k hm
          rw [hall j hlt] at hj
          exact absurd hj (by decide)

theorem State.leastPressed_eq_none {s : State} : s.leastPressed = none ↔ ∀ k : Reg, s.readKey k = false := by
  simp [State.leastPressed, List.find?_eq_none]

/-! ### Checks and exceptions (R64, R172) -/

@[simp] theorem complete_none (s done : State) : complete none s done = .next done := rfl

@[simp] theorem complete_some (e : Exc) (s done : State) : complete (some e) s done = .next (s.raise e) := rfl

/-- An instruction always ends in a next state: it takes the exception of its check, or it completes. -/
theorem complete_eq_next {check : Option Exc} {s done t : State} (h : complete check s done = .next t) :
    (∃ e, check = some e ∧ t = s.raise e) ∨ (check = none ∧ t = done) := by
  cases check with
  | none => exact .inr ⟨rfl, (Host.Outcome.next.inj h).symm⟩
  | some e => exact .inl ⟨e, rfl, (Host.Outcome.next.inj h).symm⟩

/-- The range check passes exactly when no byte is touched or the last one lies in the memory (R64). -/
theorem outOfRange_eq_none {base count : Nat} : outOfRange base count = none ↔ count = 0 ∨ base + count ≤ 0x1000 := by
  unfold outOfRange
  split <;> simp <;> omega

/-- Where the range check fails it names the lowest out-of-range address (R64). -/
theorem outOfRange_of_lt {base count : Nat} (h0 : 0 < count) (h : 0x1000 < base + count) :
    outOfRange base count = some (.memoryOutOfRange (max base 0x1000)) :=
  if_pos ⟨h0, by omega⟩

theorem keyIndex_ok {k : Byte} (h : k.toNat < 16) : keyIndex k = .ok ⟨k.toNat, h⟩ := dif_pos h

theorem keyIndex_error {k : Byte} (h : 15 < k.toNat) : keyIndex k = .error (.invalidKeyIndex k) := dif_neg (by omega)

theorem fontDigit_ok {d : Byte} (h : d.toNat < 16) : fontDigit d = .ok ⟨d.toNat, h⟩ := dif_pos h

theorem fontDigit_error {d : Byte} (h : 15 < d.toNat) : fontDigit d = .error (.invalidFontDigit d) :=
  dif_neg (by omega)

/-! ### The stack (R24) -/

/-- The entries after a push. -/
theorem State.push_stack_get (s : State) (h : s.sp.val < 16) (k : Fin 16) :
    (s.push h).stack[k] = if k.val = s.sp.val then s.pc else s.stack[k] := by
  simp [Vector.getElem_set, eq_comm]

/-! ### Operands as numbers (R73) -/

@[simp] theorem immAddr_toNat (nnn : BitVec 12) : (immAddr nnn).toNat = nnn.toNat := by
  have := nnn.isLt
  simp [immAddr]
  omega

@[simp] theorem byteAsWord_toNat (b : Byte) : (byteAsWord b).toNat = b.toNat := by
  have := b.isLt
  simp [byteAsWord]
  omega

@[simp] theorem bcdDigits_length (v : Byte) : (bcdDigits v).length = 3 := rfl

@[simp] theorem glyphAddr_toNat (d : Reg) : (glyphAddr d).toNat = 5 * d.val := by
  have := d.isLt
  simp [glyphAddr, Config.fontBase, Config.glyphBytes]
  omega

end Sys2Proof.Machine
end

