-- ==== Sys2Proof/Laws/Display.lean ====
section
/-! SUPPORT. What toggling a pixel, drawing one sprite bit and drawing a whole sprite do (R141). -/

namespace Sys2Proof.Machine

/-- Toggling a pixel flips it and leaves every other pixel as it was. -/
theorem pixel_togglePixel (fb : Framebuffer) (x px : Fin 64) (y py : Fin 32) :
    pixel (togglePixel fb x y) px py = (pixel fb px py ^^ (decide (px = x) && decide (py = y))) := by
  unfold pixel togglePixel
  rw [Vector_set_get]
  by_cases hy : py = y
  · subst py
    simp [Fin.ext_iff, eq_comm]
  · simp [hy]

@[simp] theorem pixel_blank (px : Fin 64) (py : Fin 32) : pixel (Vector.replicate 32 0) px py = false := by
  simp [pixel]

/-- Two framebuffers with the same pixels are the same data. -/
theorem Framebuffer_ext {fb fb' : Framebuffer} (h : ∀ px py, pixel fb px py = pixel fb' px py) : fb = fb' := by
  apply Vector.ext
  intro i hi
  apply BitVec.eq_of_getLsbD_eq
  intro j hj
  exact h ⟨j, hj⟩ ⟨i, hi⟩

@[simp] theorem column_val (n : Nat) : (column n).val = n % 64 := rfl

@[simp] theorem row_val (n : Nat) : (row n).val = n % 32 := rfl

/-- One set sprite bit toggles its pixel and adds its pixel's old value to the collision flag. -/
theorem drawBit_eq (acc : Framebuffer × Bool) (x : Fin 64) (y : Fin 32) :
    drawBit acc x y = (togglePixel acc.1 x y, acc.2 || pixel acc.1 x y) := rfl

/-! ### A whole sprite (R141, R142) -/

/-- Toggle the pixels of a list of distinct places, in order: each flips once, and the flag gathers their old values. -/
theorem foldl_drawBit : ∀ (L : List (Fin 64 × Fin 32)) (acc : Framebuffer × Bool), L.Nodup →
    (∀ px py, pixel (L.foldl (fun acc p => drawBit acc p.1 p.2) acc).1 px py =
      (pixel acc.1 px py ^^ decide ((px, py) ∈ L))) ∧
    (L.foldl (fun acc p => drawBit acc p.1 p.2) acc).2 = (acc.2 || L.any fun p => pixel acc.1 p.1 p.2)
  | [], acc, _ => by simp
  | p :: L, acc, h => by
    obtain ⟨hp, hL⟩ := List.nodup_cons.1 h
    obtain ⟨h1, h2⟩ := foldl_drawBit L (drawBit acc p.1 p.2) hL
    constructor
    · intro px py
      rw [List.foldl_cons, h1, drawBit_eq, pixel_togglePixel, Bool.xor_assoc]
      congr 1
      by_cases hpp : (px, py) = p
      · subst hpp
        simp [hp]
      · have : ¬(px = p.1 ∧ py = p.2) := fun h => hpp (Prod.ext h.1 h.2)
        rw [← Bool.decide_and, decide_eq_false this]
        simp [hpp]
    · rw [List.foldl_cons, h2, drawBit_eq, List.any_cons, Bool.or_assoc]
      have hrest : ∀ q ∈ L, pixel (togglePixel acc.1 p.1 p.2) q.1 q.2 = pixel acc.1 q.1 q.2 := by
        intro q hq
        rw [pixel_togglePixel]
        have : ¬(q.1 = p.1 ∧ q.2 = p.2) := fun h => hp (Prod.ext h.1 h.2 ▸ hq)
        rw [← Bool.decide_and, decide_eq_false this, Bool.xor_false]
      rw [Bool.eq_iff_iff]
      simp only [Bool.or_eq_true, List.any_eq_true]
      exact or_congr_right (or_congr_right (exists_congr fun q => and_congr_right fun hq => by rw [hrest q hq]))

/-- The places of a sprite's set bits, rows top to bottom and columns left to right (R141). -/
def spritePlaces (vx vy : Nat) : List Byte → List (Fin 64 × Fin 32)
  | [] => []
  | b :: bs => (((List.range 8).filter fun c => b.getLsbD (7 - c)).map fun c => (column (vx + c), row vy)) ++
      spritePlaces vx (vy + 1) bs

theorem drawRows_eq (vx : Nat) : ∀ (bs : List Byte) (vy : Nat) (acc : Framebuffer × Bool),
    drawRows acc vx vy bs = (spritePlaces vx vy bs).foldl (fun acc p => drawBit acc p.1 p.2) acc
  | [], _, _ => rfl
  | b :: bs, vy, acc => by
    rw [drawRows, drawRows_eq, spritePlaces, List.foldl_append, List.foldl_map, List.foldl_filter]
    rfl

/-- A place is among them when a set bit falls on it. -/
theorem mem_spritePlaces (vx : Nat) (px : Fin 64) (py : Fin 32) : ∀ (bs : List Byte) (vy : Nat),
    (px, py) ∈ spritePlaces vx vy bs ↔ ∃ r c : Nat, ∃ h : r < bs.length, c < 8 ∧ bs[r].getLsbD (7 - c) = true ∧
      px.val = (vx + c) % 64 ∧ py.val = (vy + r) % 32
  | [], _ => by simp [spritePlaces]
  | b :: bs, vy => by
    rw [spritePlaces, List.mem_append, mem_spritePlaces vx px py bs (vy + 1), List.mem_map]
    simp only [List.mem_filter, List.mem_range, Prod.mk.injEq, Fin.ext_iff, column_val, row_val]
    constructor
    · rintro (⟨c, ⟨hc, hb⟩, hx, hy⟩ | ⟨r, c, hr, hc, hb, hx, hy⟩)
      · exact ⟨0, c, by simp, hc, hb, hx.symm, hy.symm⟩
      · exact ⟨r + 1, c, by simp; omega, hc, by simpa using hb, hx, by omega⟩
    · rintro ⟨r, c, hr, hc, hb, hx, hy⟩
      cases r with
      | zero => exact .inl ⟨c, ⟨hc, by simpa using hb⟩, hx.symm, hy.symm⟩
      | succ r => exact .inr ⟨r, c, by simpa using hr, hc, by simpa using hb, hx, by omega⟩

/-- No two set bits of a sprite of at most 32 rows fall on one place, so each pixel is toggled at most once. -/
theorem spritePlaces_nodup (vx : Nat) : ∀ (bs : List Byte) (vy : Nat), bs.length ≤ 32 → (spritePlaces vx vy bs).Nodup
  | [], _, _ => List.nodup_nil
  | b :: bs, vy, h => by
    rw [List.length_cons] at h
    rw [spritePlaces, List.nodup_append]
    refine ⟨?_, spritePlaces_nodup vx bs (vy + 1) (by omega), ?_⟩
    · refine (List.nodup_range.filter _).map_on ?_
      intro c hc d hd hcd
      simp only [List.mem_filter, List.mem_range, Prod.mk.injEq, Fin.ext_iff, column_val] at hc hd hcd
      omega
    · rintro ⟨px, py⟩ hp ⟨qx, qy⟩ hq heq
      cases heq
      obtain ⟨r, c, hr, -, -, -, hy⟩ := (mem_spritePlaces vx px py bs (vy + 1)).1 hq
      obtain ⟨d, -, hd⟩ := List.mem_map.1 hp
      have := congrArg Fin.val (Prod.mk.inj hd).2
      rw [row_val] at this
      omega

/-- What drawing a sprite does: the pixels under its set bits flip, no others, and the flag says whether one of them
was White (R141). -/
theorem drawSprite_spec (fb : Framebuffer) (vx vy : Byte) {bs : List Byte} (h : bs.length ≤ 32) :
    (∀ px py, pixel (drawSprite fb vx vy bs).1 px py =
      (pixel fb px py ^^ decide ((px, py) ∈ spritePlaces vx.toNat vy.toNat bs))) ∧
    ((drawSprite fb vx vy bs).2 = true ↔
      ∃ px py, (px, py) ∈ spritePlaces vx.toNat vy.toNat bs ∧ pixel fb px py = true) := by
  obtain ⟨h1, h2⟩ := foldl_drawBit _ (fb, false) (spritePlaces_nodup vx.toNat bs vy.toNat h)
  rw [drawSprite, drawRows_eq]
  refine ⟨h1, ?_⟩
  rw [h2]
  simp

end Sys2Proof.Machine
end

