-- ==== Sys2Proof/Laws/Encoding.lean ====
section
/-! SUPPORT. The words, fields and packed formats as numbers: what the decoder's and encoder's pieces are, said once. -/

namespace Sys2Proof

theorem BitVec_toNat_append_eq {m n : Nat} (a : BitVec m) (b : BitVec n) :
    (a ++ b).toNat = a.toNat * 2 ^ n + b.toNat := by
  rw [BitVec.toNat_append, ← Nat.shiftLeft_add_eq_or_of_lt b.isLt, Nat.shiftLeft_eq]

/-- `hi ++ lo` is `256 * hi + lo` (R53). -/
theorem Word.ofBytes_toNat (hi lo : Byte) : (Word.ofBytes hi lo).toNat = hi.toNat * 256 + lo.toNat :=
  BitVec_toNat_append_eq hi lo

theorem Word.hiByte_toNat (w : Word) : w.hiByte.toNat = w.toNat / 256 := by
  have := w.isLt
  simp only [Word.hiByte, BitVec.extractLsb'_toNat, Nat.shiftRight_eq_div_pow]
  omega

theorem Word.loByte_toNat (w : Word) : w.loByte.toNat = w.toNat % 256 := by
  simp [Word.loByte, BitVec.extractLsb'_toNat]

/-- A word is its high byte followed by its low byte. -/
@[simp] theorem Word.ofBytes_hiByte_loByte (w : Word) : Word.ofBytes w.hiByte w.loByte = w := by
  apply BitVec.eq_of_toNat_eq
  rw [Word.ofBytes_toNat, Word.hiByte_toNat, Word.loByte_toNat]
  omega

/-! ### Fields as numbers (R71) -/

theorem fieldT_val (op : Word) : (fieldT op).val = op.toNat / 4096 := by
  have := op.isLt
  simp only [fieldT, BitVec.val_toFin, BitVec.extractLsb'_toNat, Nat.shiftRight_eq_div_pow]
  omega

theorem fieldX_val (op : Word) : (fieldX op).val = op.toNat / 256 % 16 := by
  simp only [fieldX, BitVec.val_toFin, BitVec.extractLsb'_toNat, Nat.shiftRight_eq_div_pow]

theorem fieldY_val (op : Word) : (fieldY op).val = op.toNat / 16 % 16 := by
  simp only [fieldY, BitVec.val_toFin, BitVec.extractLsb'_toNat, Nat.shiftRight_eq_div_pow]

theorem fieldN_val (op : Word) : (fieldN op).val = op.toNat % 16 := by
  simp [fieldN]

theorem fieldKK_toNat (op : Word) : (fieldKK op).toNat = op.toNat % 256 := by
  simp [fieldKK, BitVec.extractLsb'_toNat]

theorem fieldNNN_toNat (op : Word) : (fieldNNN op).toNat = op.toNat % 4096 := by
  simp [fieldNNN, BitVec.extractLsb'_toNat]

/-! ### Packed formats as numbers (R72) -/

theorem packNNN_toNat (t : BitVec 4) (nnn : BitVec 12) :
    (packNNN t nnn).toNat = t.toNat * 4096 + nnn.toNat :=
  BitVec_toNat_append_eq t nnn

theorem packXKK_toNat (t : BitVec 4) (x : Reg) (kk : Byte) :
    (packXKK t x kk).toNat = t.toNat * 4096 + x.val * 256 + kk.toNat := by
  have h : (packXKK t x kk).toNat = (t.toNat * 2 ^ 4 + x.val) * 2 ^ 8 + kk.toNat :=
    (BitVec_toNat_append_eq _ kk).trans (by rw [BitVec_toNat_append_eq]; rfl)
  rw [h]
  ring

theorem packXYN_toNat (t : BitVec 4) (x y : Reg) (n : Fin 16) :
    (packXYN t x y n).toNat = t.toNat * 4096 + x.val * 256 + y.val * 16 + n.val := by
  have h : (packXYN t x y n).toNat = ((t.toNat * 2 ^ 4 + x.val) * 2 ^ 4 + y.val) * 2 ^ 4 + n.val :=
    (BitVec_toNat_append_eq _ _).trans (by rw [BitVec_toNat_append_eq, BitVec_toNat_append_eq]; rfl)
  rw [h]
  ring

/-- The bytes of an encoded instruction are read back as its word (R53, R83). -/
theorem decodeBytes_encodeBytes (i : Instr) (rest : List Byte) :
    decodeBytes (encodeBytes i ++ rest) = (decodeWord (encode i)).map (·, rest) := by
  simp [decodeBytes, encodeBytes]

/-- The door `decodeTableWord` is the decoder on the table's word. -/
theorem decodeTableWord_eq (nbits w : Nat) : decodeTableWord nbits w = (decodeWord (tableWord nbits w)).toOption := by
  simp only [decodeTableWord, decodeBytes, Word.ofBytes_hiByte_loByte]
  cases decodeWord (tableWord nbits w) <;> rfl

end Sys2Proof
end

