-- ==== Sys2Proof/Laws/Exec.lean ====
section
/-! SUPPORT. What an instruction can do, said once: it takes an exception or completes in one of these states. -/

namespace Sys2Proof.Machine

/-- The state in which an instruction that takes no exception ends, and the check it has passed. -/
inductive Completes (s : State) : Instr → State → Prop where
  | cls : Completes s .cls (s.paint (Vector.replicate 32 0)).advance
  | ret (h : 0 < s.sp.val) : Completes s .ret (s.pop.setPc (s.top h + 2))
  | jp (nnn : BitVec 12) : Completes s (.jp nnn) (s.setPc (immAddr nnn))
  | call (nnn : BitVec 12) (h : s.sp.val < 16) : Completes s (.call nnn) ((s.push h).setPc (immAddr nnn))
  | seImm (x : Reg) (kk : Byte) : Completes s (.seImm x kk) (s.skipIf (s.readV x == kk))
  | sneImm (x : Reg) (kk : Byte) : Completes s (.sneImm x kk) (s.skipIf (s.readV x != kk))
  | seReg (x y : Reg) : Completes s (.seReg x y) (s.skipIf (s.readV x == s.readV y))
  | ldImm (x : Reg) (kk : Byte) : Completes s (.ldImm x kk) (s.writeV x kk).advance
  | addImm (x : Reg) (kk : Byte) : Completes s (.addImm x kk) (s.writeV x (addFlagged (s.readV x) kk).value).advance
  | ldReg (x y : Reg) : Completes s (.ldReg x y) (s.writeV x (s.readV y)).advance
  | orReg (x y : Reg) : Completes s (.orReg x y) (s.writeV x (s.readV x ||| s.readV y)).advance
  | andReg (x y : Reg) : Completes s (.andReg x y) (s.writeV x (s.readV x &&& s.readV y)).advance
  | xorReg (x y : Reg) : Completes s (.xorReg x y) (s.writeV x (s.readV x ^^^ s.readV y)).advance
  | addReg (x y : Reg) : Completes s (.addReg x y) (s.writeFlagged x (addFlagged (s.readV x) (s.readV y))).advance
  | subReg (x y : Reg) : Completes s (.subReg x y) (s.writeFlagged x (subFlagged (s.readV x) (s.readV y))).advance
  | shr (x y : Reg) : Completes s (.shr x y) (s.writeFlagged x (shrFlagged (s.readV x))).advance
  | subn (x y : Reg) : Completes s (.subn x y) (s.writeFlagged x (subFlagged (s.readV y) (s.readV x))).advance
  | shl (x y : Reg) : Completes s (.shl x y) (s.writeFlagged x (shlFlagged (s.readV x))).advance
  | sneReg (x y : Reg) : Completes s (.sneReg x y) (s.skipIf (s.readV x != s.readV y))
  | ldI (nnn : BitVec 12) : Completes s (.ldI nnn) (s.setI (immAddr nnn)).advance
  | jpV0 (nnn : BitVec 12) : Completes s (.jpV0 nnn) (s.setPc (immAddr nnn + byteAsWord (s.readV 0)))
  | rnd (x : Reg) (kk : Byte) : Completes s (.rnd x kk) (s.countDraw.writeV x (Config.randByte s.draws &&& kk)).advance
  | drw (x y : Reg) (n : Fin 16) (h : outOfRange s.I.toNat n = none) :
    Completes s (.drw x y n) ((s.paint (drwResult x y n s).1).setFlag (drwResult x y n s).2).advance
  | skp (x k : Reg) (h : keyIndex (s.readV x) = .ok k) : Completes s (.skp x) (s.skipIf (s.readKey k))
  | sknp (x k : Reg) (h : keyIndex (s.readV x) = .ok k) : Completes s (.sknp x) (s.skipIf (!s.readKey k))
  | ldVxDt (x : Reg) : Completes s (.ldVxDt x) (s.writeV x s.DT).advance
  | ldVxKPressed (x k : Reg) (h : s.leastPressed = some k) :
    Completes s (.ldVxK x) (s.writeV x (BitVec.ofNat 8 k.val)).advance
  | ldVxKBlocked (x : Reg) (h : s.leastPressed = none) : Completes s (.ldVxK x) s
  | ldDtVx (x : Reg) : Completes s (.ldDtVx x) (s.setDT (s.readV x)).advance
  | ldStVx (x : Reg) : Completes s (.ldStVx x) (s.setST (s.readV x)).advance
  | addI (x : Reg) : Completes s (.addI x) (s.setI (s.I + byteAsWord (s.readV x))).advance
  | ldF (x d : Reg) (h : fontDigit (s.readV x) = .ok d) : Completes s (.ldF x) (s.setI (glyphAddr d)).advance
  | ldB (x : Reg) (h : outOfRange s.I.toNat 3 = none) :
    Completes s (.ldB x) (s.storeAtI (bcdDigits (s.readV x))).advance
  | ldMemVx (x : Reg) (h : outOfRange s.I.toNat (x.val + 1) = none) :
    Completes s (.ldMemVx x) (s.storeAtI (s.V.toList.take (x.val + 1))).advance
  | ldVxMem (x : Reg) (h : outOfRange s.I.toNat (x.val + 1) = none) : Completes s (.ldVxMem x) (s.loadFromI x).advance

theorem complete_total (check : Option Exc) (s done : State) : ∃ t, complete check s done = .next t := by
  cases check <;> exact ⟨_, rfl⟩

/-- Every instruction of the machine answers a next state: none ends in a fault or a refusal. -/
theorem exec_total (i : Instr) (s : State) : ∃ t, exec i s = .next t := by
  cases i with
  | drw x y n | ldB x | ldMemVx x | ldVxMem x => all_goals exact complete_total _ _ _
  | ret =>
    simp only [exec, execRet]
    split
    · exact ⟨_, rfl⟩
    · exact complete_total _ _ _
  | call nnn =>
    simp only [exec, execCall]
    split
    · exact ⟨_, rfl⟩
    · exact complete_total _ _ _
  | skp x =>
    simp only [exec, execSkp]
    split
    · exact ⟨_, rfl⟩
    · exact complete_total _ _ _
  | sknp x =>
    simp only [exec, execSknp]
    split
    · exact ⟨_, rfl⟩
    · exact complete_total _ _ _
  | ldF x =>
    simp only [exec, execLdF]
    split
    · exact ⟨_, rfl⟩
    · exact complete_total _ _ _
  | ldVxK x =>
    simp only [exec, execLdVxK]
    split <;> exact ⟨_, rfl⟩
  | _ => exact ⟨_, rfl⟩

/-- The inversion of `exec`. -/
theorem exec_eq_next {i : Instr} {s t : State} (h : exec i s = .next t) :
    (∃ e, t = s.raise e) ∨ Completes s i t := by
  cases i with
  | sys nnn => exact .inl ⟨_, (Host.Outcome.next.inj h).symm⟩
  | ret =>
    simp only [exec, execRet] at h
    split at h <;> obtain rfl := Host.Outcome.next.inj h
    · exact .inr (.ret _)
    · exact .inl ⟨_, rfl⟩
  | call nnn =>
    simp only [exec, execCall] at h
    split at h <;> obtain rfl := Host.Outcome.next.inj h
    · exact .inr (.call _ _)
    · exact .inl ⟨_, rfl⟩
  | skp x =>
    simp only [exec, execSkp] at h
    split at h <;> obtain rfl := Host.Outcome.next.inj h
    · exact .inr (.skp _ _ ‹_›)
    · exact .inl ⟨_, rfl⟩
  | sknp x =>
    simp only [exec, execSknp] at h
    split at h <;> obtain rfl := Host.Outcome.next.inj h
    · exact .inr (.sknp _ _ ‹_›)
    · exact .inl ⟨_, rfl⟩
  | ldF x =>
    simp only [exec, execLdF] at h
    split at h <;> obtain rfl := Host.Outcome.next.inj h
    · exact .inr (.ldF _ _ ‹_›)
    · exact .inl ⟨_, rfl⟩
  | ldVxK x =>
    simp only [exec, execLdVxK] at h
    split at h <;> obtain rfl := Host.Outcome.next.inj h
    · exact .inr (.ldVxKPressed _ _ ‹_›)
    · exact .inr (.ldVxKBlocked _ ‹_›)
  | drw x y n =>
    rcases complete_eq_next h with ⟨e, -, rfl⟩ | ⟨hc, rfl⟩
    · exact .inl ⟨e, rfl⟩
    · exact .inr (.drw _ _ _ hc)
  | ldB x =>
    rcases complete_eq_next h with ⟨e, -, rfl⟩ | ⟨hc, rfl⟩
    · exact .inl ⟨e, rfl⟩
    · exact .inr (.ldB _ hc)
  | ldMemVx x =>
    rcases complete_eq_next h with ⟨e, -, rfl⟩ | ⟨hc, rfl⟩
    · exact .inl ⟨e, rfl⟩
    · exact .inr (.ldMemVx _ hc)
  | ldVxMem x =>
    rcases complete_eq_next h with ⟨e, -, rfl⟩ | ⟨hc, rfl⟩
    · exact .inl ⟨e, rfl⟩
    · exact .inr (.ldVxMem _ hc)
  | _ =>
    obtain rfl := Host.Outcome.next.inj h
    exact .inr (by constructor)

end Sys2Proof.Machine
end

