-- ==== Sys2Proof/Laws/Flags.lean ====
section
/-! SUPPORT. The results and flags of the arithmetic as numbers (R133, R134). -/

namespace Sys2Proof.Machine

@[simp] theorem addFlagged_value (a b : Byte) : (addFlagged a b).value.toNat = (a.toNat + b.toNat) % 256 := by
  simp [addFlagged]

@[simp] theorem addFlagged_flag (a b : Byte) : (addFlagged a b).flag = true ↔ a.toNat + b.toNat > 255 := by
  simp [addFlagged]

@[simp] theorem subFlagged_value (a b : Byte) : (subFlagged a b).value.toNat = (a.toNat + 256 - b.toNat) % 256 := by
  have := a.isLt
  have := b.isLt
  simp only [subFlagged, BitVec.toNat_sub]
  omega

@[simp] theorem subFlagged_flag (a b : Byte) : (subFlagged a b).flag = true ↔ a.toNat ≥ b.toNat := by
  simp [subFlagged]

@[simp] theorem shrFlagged_value (a : Byte) : (shrFlagged a).value.toNat = a.toNat / 2 := by
  simp [shrFlagged, Nat.shiftRight_eq_div_pow]

@[simp] theorem shrFlagged_flag (a : Byte) : (shrFlagged a).flag = true ↔ a.toNat % 2 = 1 := by
  simp [shrFlagged, BitVec.getLsbD, Nat.testBit_zero]

@[simp] theorem shlFlagged_value (a : Byte) : (shlFlagged a).value.toNat = 2 * a.toNat % 256 := by
  simp [shlFlagged, Nat.shiftLeft_eq]
  omega

@[simp] theorem shlFlagged_flag (a : Byte) : (shlFlagged a).flag = true ↔ a.toNat / 128 = 1 := by
  have := a.isLt
  simp only [shlFlagged, BitVec.getLsbD, Nat.testBit_eq_decide_div_mod_eq, decide_eq_true_eq]
  omega

end Sys2Proof.Machine
end

