-- ==== Sys2Proof/Laws/Memory.lean ====
section
/-! SUPPORT. What the memory operations do: the canonical form is kept, and a read after a write. -/

namespace Sys2Proof.Machine.Memory

@[simp] theorem wfFrom_nil (lo : Nat) : wfFrom lo [] = true := rfl

theorem wfFrom_cons {lo a : Nat} {v : Byte} {m : Memory} :
    wfFrom lo ((a, v) :: m) = true ↔
      lo ≤ a ∧ a < Config.memSize ∧ v ≠ background a ∧ wfFrom (a + 1) m = true := by
  simp [wfFrom, and_assoc]

theorem wfFrom_mono {lo lo' : Nat} (h : lo' ≤ lo) : ∀ {m : Memory}, wfFrom lo m = true → wfFrom lo' m = true
  | [], _ => rfl
  | (a, v) :: m, hm => by
    rw [wfFrom_cons] at hm ⊢
    exact ⟨h.trans hm.1, hm.2⟩

/-- Below its first address a canonical memory reads as unlisted. -/
theorem read_of_lt {lo a : Nat} : ∀ {m : Memory}, wfFrom lo m = true → a < lo → read m a = background a
  | [], _, _ => rfl
  | (b, w) :: m, hm, ha => by
    rw [wfFrom_cons] at hm
    rw [read, if_neg (by omega)]
    exact read_of_lt hm.2.2.2 (by omega)

theorem put_wfFrom {a : Nat} {v : Byte} (ha : a < Config.memSize) :
    ∀ {m : Memory} {lo : Nat}, lo ≤ a → wfFrom lo m = true → wfFrom lo (put m a v) = true
  | [], lo, hlo, _ => by
    unfold put
    split
    · rfl
    · exact wfFrom_cons.2 ⟨hlo, ha, ‹_›, rfl⟩
  | (b, w) :: m, lo, hlo, hm => by
    have hm' := wfFrom_cons.1 hm
    unfold put
    split
    · split
      · exact hm
      · exact wfFrom_cons.2 ⟨hlo, ha, ‹_›, wfFrom_cons.2 ⟨by omega, hm'.2⟩⟩
    · split
      · split
        · exact wfFrom_mono (by omega) hm'.2.2.2
        · subst b
          exact wfFrom_cons.2 ⟨hlo, ha, ‹_›, hm'.2.2.2⟩
      · exact wfFrom_cons.2 ⟨hm'.1, hm'.2.1, hm'.2.2.1, put_wfFrom ha (by omega) hm'.2.2.2⟩

/-- A read after `put`, in a canonical memory. -/
theorem read_put {a c : Nat} {v : Byte} :
    ∀ {m : Memory} {lo : Nat}, wfFrom lo m = true → read (put m a v) c = if c = a then v else read m c
  | [], _, _ => by
    unfold put
    by_cases hc : c = a <;> split <;> simp_all [read]
  | (b, w) :: m, lo, hm => by
    have hm' := (wfFrom_cons.1 hm).2.2.2
    unfold put
    split
    · rename_i hab
      split
      · by_cases hc : c = a
        · subst c
          rw [if_pos rfl, read, if_neg (by omega), read_of_lt hm' (by omega)]
          exact Eq.symm ‹_›
        · rw [if_neg hc]
      · by_cases hc : c = a <;> simp [read, hc]
    · split
      · subst b
        split
        · by_cases hc : c = a
          · subst c
            rw [if_pos rfl, read_of_lt hm' (by omega)]
            exact Eq.symm ‹_›
          · simp [read, hc]
        · by_cases hc : c = a <;> simp [read, hc]
      · rename_i hab hne
        by_cases hcb : c = b
        · subst c
          rw [read, if_pos rfl, if_neg (by omega), read, if_pos rfl]
        · rw [read, if_neg hcb, read_put hm', read, if_neg hcb]

/-- Every write keeps the canonical form. -/
theorem write_wf {m : Memory} (a : Nat) (v : Byte) (hm : m.wf = true) : (m.write a v).wf = true := by
  unfold write
  split
  · exact put_wfFrom ‹_› (Nat.zero_le _) hm
  · exact hm

/-- A read after a write: the value written at that address, and every other address as before. -/
theorem read_write {m : Memory} (hm : m.wf = true) {a : Nat} (ha : a < 4096) (v : Byte) (c : Nat) :
    (m.write a v).read c = if c = a then v else m.read c := by
  rw [write, if_pos (show a < Config.memSize from ha), read_put hm]

theorem writeBytes_wf : ∀ (bs : List Byte) {m : Memory} (base : Nat), m.wf = true → (m.writeBytes base bs).wf = true
  | [], _, _, hm => hm
  | b :: bs, _, base, hm => writeBytes_wf bs (base + 1) (write_wf base b hm)

/-- A read after a sequence of stores that stay inside the memory. -/
theorem read_writeBytes : ∀ (bs : List Byte) {m : Memory} (base : Nat), m.wf = true → base + bs.length ≤ 4096 →
    ∀ c, (m.writeBytes base bs).read c =
      if h : base ≤ c ∧ c < base + bs.length then bs[c - base]'(by omega) else m.read c
  | [], m, base, _, _, c => by
    rw [writeBytes, dif_neg (by simp)]
  | b :: bs, m, base, hm, hlen, c => by
    simp only [List.length_cons] at hlen ⊢
    rw [writeBytes, read_writeBytes bs (base + 1) (write_wf base b hm) (by omega), read_write hm (by omega)]
    by_cases hc : c = base
    · subst c
      rw [dif_neg (by omega), dif_pos (by omega), if_pos rfl]
      simp
    · rw [if_neg hc]
      by_cases h : base + 1 ≤ c ∧ c < base + 1 + bs.length
      · rw [dif_pos h, dif_pos (by omega), List.getElem_cons, dif_neg (by omega)]
        congr 1
      · rw [dif_neg h, dif_neg (by omega)]

/-- The `k`-th byte stored is the byte read at `base + k`. -/
theorem read_writeBytes_inside {m : Memory} {base k : Nat} {bs : List Byte} (hm : m.wf = true)
    (hlen : base + bs.length ≤ 4096) (hk : k < bs.length) : (m.writeBytes base bs).read (base + k) = bs[k] := by
  rw [read_writeBytes bs base hm hlen, dif_pos (by omega)]
  simp

/-- An address outside the stored bytes reads as before. -/
theorem read_writeBytes_outside {m : Memory} {base a : Nat} {bs : List Byte} (hm : m.wf = true)
    (hlen : base + bs.length ≤ 4096) (ha : a < base ∨ base + bs.length ≤ a) :
    (m.writeBytes base bs).read a = m.read a := by
  rw [read_writeBytes bs base hm hlen, dif_neg (by omega)]

@[simp] theorem readBytes_length (m : Memory) (base count : Nat) : (m.readBytes base count).length = count := by
  simp [readBytes]

@[simp] theorem readBytes_getElem (m : Memory) (base count k : Nat) (h : k < (m.readBytes base count).length) :
    (m.readBytes base count)[k] = m.read (base + k) := by
  simp [readBytes]

theorem writeWord_wf {m : Memory} (a : Nat) (w : Word) (hm : m.wf = true) : (m.writeWord a w).wf = true :=
  writeBytes_wf _ a hm

/-- The word stored at an address is the word read there. -/
theorem readWord_writeWord {m : Memory} (hm : m.wf = true) {a : Nat} (ha : a ≤ 0xFFE) (w : Word) :
    (m.writeWord a w).readWord a = w := by
  rw [readWord, writeWord, read_writeBytes _ _ hm (by simp; omega), read_writeBytes _ _ hm (by simp; omega)]
  rw [dif_pos (by simp), dif_pos (by simp)]
  simp

theorem reset_wf : State.reset.mem.wf = true := rfl

end Sys2Proof.Machine.Memory
end

