-- ==== Sys2Proof/Laws/Step.lean ====
section
/-! SUPPORT. What a step can do, said once: the inversion of `cycle`, `finish` and `tick`. -/

namespace Sys2Proof.Machine

/-! ### The tick (R181) -/

@[simp] theorem decTimer_toNat (t : Byte) : (decTimer t).toNat = t.toNat - 1 := by
  have := t.isLt
  unfold decTimer
  split
  · simp_all
  · rename_i h
    have : t.toNat ≠ 0 := fun h0 => h (BitVec.eq_of_toNat_eq h0)
    rw [BitVec.toNat_sub, show (1 : Byte).toNat = 1 from rfl]
    omega

/-- The tick touches the divider, the timers and the pulse, and nothing else. -/
theorem tick_frame (s : State) :
    tick s = { s with div := (tick s).div, DT := (tick s).DT, ST := (tick s).ST, stExpired := (tick s).stExpired } := by
  unfold tick
  split <;> rfl

theorem tick_div (s : State) : (tick s).div.val = (s.div.val + 1) % 10 := by
  unfold tick
  split
  · rename_i h
    simp only [Config.timerRatio] at h
    simp [h]
  · rfl

theorem tick_DT (s : State) : (tick s).DT.toNat = if s.div.val = 9 then s.DT.toNat - 1 else s.DT.toNat := by
  unfold tick
  simp only [Config.timerRatio, Nat.reduceEqDiff]
  split <;> simp

theorem tick_ST (s : State) : (tick s).ST.toNat = if s.div.val = 9 then s.ST.toNat - 1 else s.ST.toNat := by
  unfold tick
  simp only [Config.timerRatio, Nat.reduceEqDiff]
  split <;> simp

theorem tick_stExpired (s : State) : (tick s).stExpired = true ↔ s.div.val = 9 ∧ s.ST = 1 := by
  unfold tick
  simp only [Config.timerRatio, Nat.reduceEqDiff]
  split <;> simp_all

@[simp] theorem tick_V (s : State) : (tick s).V = s.V := by rw [tick_frame]
@[simp] theorem tick_I (s : State) : (tick s).I = s.I := by rw [tick_frame]
@[simp] theorem tick_pc (s : State) : (tick s).pc = s.pc := by rw [tick_frame]
@[simp] theorem tick_sp (s : State) : (tick s).sp = s.sp := by rw [tick_frame]
@[simp] theorem tick_stack (s : State) : (tick s).stack = s.stack := by rw [tick_frame]
@[simp] theorem tick_key (s : State) : (tick s).key = s.key := by rw [tick_frame]
@[simp] theorem tick_fb (s : State) : (tick s).fb = s.fb := by rw [tick_frame]
@[simp] theorem tick_redraw (s : State) : (tick s).redraw = s.redraw := by rw [tick_frame]
@[simp] theorem tick_status (s : State) : (tick s).status = s.status := by rw [tick_frame]
@[simp] theorem tick_mem (s : State) : (tick s).mem = s.mem := by rw [tick_frame]
@[simp] theorem tick_draws (s : State) : (tick s).draws = s.draws := by rw [tick_frame]

/-! ### The fetch (R52, R53) -/

theorem fetch_error {s : State} (h : 0xFFE < s.pc.toNat) : fetch s = .error (.memoryOutOfRange s.pc.toNat) := if_pos h

theorem fetch_ok {s : State} (h : s.pc.toNat ≤ 0xFFE) : fetch s = .ok (s.mem.readWord s.pc.toNat) :=
  if_neg (by omega)

/-! ### The step (R170) -/

theorem finish_running {t : State} (h : t.status = .running) : finish (.next t) = .next (tick t) := if_pos h

theorem finish_faulted {t : State} (h : t.status ≠ .running) : finish (.next t) = .next t := if_neg h

theorem finish_eq_next {r : Result} {u : State} (h : finish r = .next u) :
    ∃ t, r = .next t ∧ ((t.status = .running ∧ u = tick t) ∨ (t.status ≠ .running ∧ u = t)) := by
  cases r with
  | next t =>
    refine ⟨t, rfl, ?_⟩
    by_cases ht : t.status = .running
    · rw [finish_running ht] at h
      exact .inl ⟨ht, (Host.Outcome.next.inj h).symm⟩
    · rw [finish_faulted ht] at h
      exact .inr ⟨ht, (Host.Outcome.next.inj h).symm⟩
  | fault f => cases h
  | refused f => cases h

variable {dec : Word → Except DecodeReject Instr} {ex : Instr → State → Result}

theorem cycle_faulted {s : State} {e : Exc} (h : s.status = .faulted e) : cycle dec ex s = .fault (.notRunning e) := by
  simp [cycle, h]

theorem cycle_fetch_error {s : State} (h : s.status = .running) (hpc : 0xFFE < s.pc.toNat) :
    cycle dec ex s = .next (s.raise (.memoryOutOfRange s.pc.toNat)) := by
  simp [cycle, h, fetch_error hpc]

theorem cycle_reject {s : State} {r : DecodeReject} (h : s.status = .running) (hpc : s.pc.toNat ≤ 0xFFE)
    (hd : dec (s.mem.readWord s.pc.toNat) = .error r) :
    cycle dec ex s = .next (s.raise (.illegalInstruction (s.mem.readWord s.pc.toNat))) := by
  simp [cycle, h, fetch_ok hpc, hd]

theorem cycle_exec {s : State} {i : Instr} (h : s.status = .running) (hpc : s.pc.toNat ≤ 0xFFE)
    (hd : dec (s.mem.readWord s.pc.toNat) = .ok i) : cycle dec ex s = finish (ex i s) := by
  simp [cycle, h, fetch_ok hpc, hd]

/-- What a step that answers a next state has done: a fetch fault, an illegal word, or one instruction of the running
block, with the tick after it unless it faulted. -/
theorem cycle_eq_next {s u : State} (h : cycle dec ex s = .next u) :
    s.status = .running ∧
      ((0xFFE < s.pc.toNat ∧ u = s.raise (.memoryOutOfRange s.pc.toNat)) ∨
        (s.pc.toNat ≤ 0xFFE ∧ (∃ r, dec (s.mem.readWord s.pc.toNat) = .error r) ∧
          u = s.raise (.illegalInstruction (s.mem.readWord s.pc.toNat))) ∨
        (s.pc.toNat ≤ 0xFFE ∧ ∃ i t, dec (s.mem.readWord s.pc.toNat) = .ok i ∧ ex i s = .next t ∧
          ((t.status = .running ∧ u = tick t) ∨ (t.status ≠ .running ∧ u = t)))) := by
  cases hs : s.status with
  | faulted e => rw [cycle_faulted hs] at h; cases h
  | running =>
    refine ⟨rfl, ?_⟩
    by_cases hpc : 0xFFE < s.pc.toNat
    · rw [cycle_fetch_error hs hpc] at h
      exact .inl ⟨hpc, (Host.Outcome.next.inj h).symm⟩
    · rw [not_lt] at hpc
      cases hd : dec (s.mem.readWord s.pc.toNat) with
      | error r =>
        rw [cycle_reject hs hpc hd] at h
        exact .inr (.inl ⟨hpc, ⟨r, rfl⟩, (Host.Outcome.next.inj h).symm⟩)
      | ok i =>
        rw [cycle_exec hs hpc hd] at h
        obtain ⟨t, ht, hu⟩ := finish_eq_next h
        exact .inr (.inr ⟨hpc, i, t, rfl, ht, hu⟩)

/-- The variant's `exec` at the default parameters is the model of record's (R6). -/
theorem execWith_record (i : Instr) (s : State) : execWith Config.record i s = exec i s := by
  cases i <;> rfl

/-- The fetch word that the host places is the word that the step fetches. -/
theorem withFetchWord_fetch {s : State} (hm : s.mem.wf = true) (hpc : s.pc.toNat ≤ 0xFFE) (nbits w : Nat) :
    fetch (s.withFetchWord nbits w) = .ok (tableWord nbits w) := by
  rw [fetch_ok (s := s.withFetchWord nbits w) hpc]
  exact congrArg _ (Memory.readWord_writeWord hm hpc _)

end Sys2Proof.Machine
end

