-- ==== Sys2Proof/Laws/Interface.lean ====
section
/-! SUPPORT. One lemma per field per update that the host makes (R34). -/

namespace Sys2Proof.Machine.State

@[simp] theorem latchKey_V (s : State) (k : Reg) (b : Bool) : (s.latchKey k b).V = s.V := rfl
@[simp] theorem latchKey_I (s : State) (k : Reg) (b : Bool) : (s.latchKey k b).I = s.I := rfl
@[simp] theorem latchKey_pc (s : State) (k : Reg) (b : Bool) : (s.latchKey k b).pc = s.pc := rfl
@[simp] theorem latchKey_sp (s : State) (k : Reg) (b : Bool) : (s.latchKey k b).sp = s.sp := rfl
@[simp] theorem latchKey_stack (s : State) (k : Reg) (b : Bool) : (s.latchKey k b).stack = s.stack := rfl
@[simp] theorem latchKey_DT (s : State) (k : Reg) (b : Bool) : (s.latchKey k b).DT = s.DT := rfl
@[simp] theorem latchKey_ST (s : State) (k : Reg) (b : Bool) : (s.latchKey k b).ST = s.ST := rfl
@[simp] theorem latchKey_fb (s : State) (k : Reg) (b : Bool) : (s.latchKey k b).fb = s.fb := rfl
@[simp] theorem latchKey_redraw (s : State) (k : Reg) (b : Bool) : (s.latchKey k b).redraw = s.redraw := rfl
@[simp] theorem latchKey_div (s : State) (k : Reg) (b : Bool) : (s.latchKey k b).div = s.div := rfl
@[simp] theorem latchKey_status (s : State) (k : Reg) (b : Bool) : (s.latchKey k b).status = s.status := rfl
@[simp] theorem latchKey_mem (s : State) (k : Reg) (b : Bool) : (s.latchKey k b).mem = s.mem := rfl
@[simp] theorem latchKey_stExpired (s : State) (k : Reg) (b : Bool) : (s.latchKey k b).stExpired = s.stExpired := rfl
@[simp] theorem latchKey_draws (s : State) (k : Reg) (b : Bool) : (s.latchKey k b).draws = s.draws := rfl

/-- The keypad after one key is set. -/
theorem latchKey_readKey (s : State) (k j : Reg) (b : Bool) :
    (s.latchKey k b).readKey j = if j = k then b else s.readKey j := by
  have hj := j.isLt
  by_cases h : j = k
  · subst h
    cases b <;> simp [readKey, latchKey]
  · have : k.val ≠ j.val := fun hh => h (Fin.ext hh.symm)
    cases b
    · simp [readKey, latchKey, h]
      intros
      omega
    · simp [readKey, latchKey, h]
      intros
      omega

@[simp] theorem clearRedraw_V (s : State) : s.clearRedraw.V = s.V := rfl
@[simp] theorem clearRedraw_I (s : State) : s.clearRedraw.I = s.I := rfl
@[simp] theorem clearRedraw_pc (s : State) : s.clearRedraw.pc = s.pc := rfl
@[simp] theorem clearRedraw_sp (s : State) : s.clearRedraw.sp = s.sp := rfl
@[simp] theorem clearRedraw_stack (s : State) : s.clearRedraw.stack = s.stack := rfl
@[simp] theorem clearRedraw_DT (s : State) : s.clearRedraw.DT = s.DT := rfl
@[simp] theorem clearRedraw_ST (s : State) : s.clearRedraw.ST = s.ST := rfl
@[simp] theorem clearRedraw_key (s : State) : s.clearRedraw.key = s.key := rfl
@[simp] theorem clearRedraw_fb (s : State) : s.clearRedraw.fb = s.fb := rfl
@[simp] theorem clearRedraw_redraw (s : State) : s.clearRedraw.redraw = false := rfl
@[simp] theorem clearRedraw_div (s : State) : s.clearRedraw.div = s.div := rfl
@[simp] theorem clearRedraw_status (s : State) : s.clearRedraw.status = s.status := rfl
@[simp] theorem clearRedraw_mem (s : State) : s.clearRedraw.mem = s.mem := rfl
@[simp] theorem clearRedraw_stExpired (s : State) : s.clearRedraw.stExpired = s.stExpired := rfl
@[simp] theorem clearRedraw_draws (s : State) : s.clearRedraw.draws = s.draws := rfl

/-- A running block takes the host's inputs. -/
theorem takesHostInputs_running {s : State} (h : s.status = .running) : s.takesHostInputs = true := by
  simp [takesHostInputs, h]

/-- A faulted block does not: it is frozen (R172). -/
theorem takesHostInputs_faulted {s : State} (h : s.status ≠ .running) : s.takesHostInputs = false := by
  simp [takesHostInputs, h]

theorem setKey_running {s : State} (h : s.status = .running) (k : Reg) (b : Bool) : s.setKey k b = s.latchKey k b := by
  rw [setKey, takesHostInputs_running h, if_pos rfl]

theorem setKey_faulted {s : State} (h : s.status ≠ .running) (k : Reg) (b : Bool) : s.setKey k b = s := by
  rw [setKey, takesHostInputs_faulted h, if_neg Bool.false_ne_true]

theorem ackRedraw_running {s : State} (h : s.status = .running) : s.ackRedraw = s.clearRedraw := by
  rw [ackRedraw, takesHostInputs_running h, if_pos rfl]

theorem ackRedraw_faulted {s : State} (h : s.status ≠ .running) : s.ackRedraw = s := by
  rw [ackRedraw, takesHostInputs_faulted h, if_neg Bool.false_ne_true]

theorem stepped_next {s t : State} (h : Machine.step s = .next t) : s.stepped = t := by
  rw [stepped, h]

/-- A faulted block takes no step (R172). -/
theorem stepped_faulted {s : State} {e : Exc} (h : s.status = .faulted e) : s.stepped = s := by
  rw [stepped, show Machine.step s = _ from cycle_faulted h]

end Sys2Proof.Machine.State
end

