-- ==== Sys2Proof/Laws/PerInstr.lean ====
section
/-! SUPPORT. Per-instruction laws: the encoder and the opcode table agree on every constructor. -/

namespace Sys2Proof.Laws.RowSelected

/-- The word of a well-formed instruction selects the instruction's own row of the opcode table (R74, R83). -/
def Statement (i : Instr) : Prop := ∃ r ∈ opcodeTable, r.number = i.number ∧ r.selects (encode i) = true

/-- Masking two concatenations masks their parts. -/
theorem append_and {m n : Nat} (a c : BitVec m) (b d : BitVec n) : (a ++ b) &&& (c ++ d) = (a &&& c) ++ (b &&& d) :=
  BitVec.and_append

theorem selects_NNN {r : OpcodeRow} {t : BitVec 4} (nnn : BitVec 12) (hm : r.mask = 0xF#4 ++ 0#12)
    (hb : r.bits = t ++ 0#12) : r.selects (packNNN t nnn) = true := by
  rw [OpcodeRow.selects, hm, hb, packNNN, append_and, BitVec.and_zero, beq_iff_eq]
  exact congrArg (· ++ 0#12) BitVec.and_allOnes

theorem selects_XKK {r : OpcodeRow} {t : BitVec 4} (x : Reg) (kk : Byte) (hm : r.mask = 0xF#4 ++ 0#4 ++ 0#8)
    (hb : r.bits = t ++ 0#4 ++ 0#8) : r.selects (packXKK t x kk) = true := by
  rw [OpcodeRow.selects, hm, hb, packXKK, append_and, append_and, BitVec.and_zero, BitVec.and_zero, beq_iff_eq]
  exact congrArg (· ++ 0#4 ++ 0#8) BitVec.and_allOnes

theorem selects_X {r : OpcodeRow} {t : BitVec 4} (x : Reg) (kk : Byte) (hm : r.mask = 0xF#4 ++ 0#4 ++ 0xFF#8)
    (hb : r.bits = t ++ 0#4 ++ kk) : r.selects (packXKK t x kk) = true := by
  rw [OpcodeRow.selects, hm, hb, packXKK, append_and, append_and, BitVec.and_zero, beq_iff_eq]
  exact congrArg₂ (· ++ 0#4 ++ ·) BitVec.and_allOnes BitVec.and_allOnes

theorem selects_XY {r : OpcodeRow} {t : BitVec 4} (x y : Reg) (n : Fin 16)
    (hm : r.mask = 0xF#4 ++ 0#4 ++ 0#4 ++ 0xF#4) (hb : r.bits = t ++ 0#4 ++ 0#4 ++ (BitVec.ofFin n : BitVec 4)) :
    r.selects (packXYN t x y n) = true := by
  rw [OpcodeRow.selects, hm, hb, packXYN, append_and, append_and, append_and, BitVec.and_zero, BitVec.and_zero,
    beq_iff_eq]
  exact congrArg₂ (· ++ 0#4 ++ 0#4 ++ ·) BitVec.and_allOnes BitVec.and_allOnes

theorem selects_XYN {r : OpcodeRow} {t : BitVec 4} (x y : Reg) (n : Fin 16)
    (hm : r.mask = 0xF#4 ++ 0#4 ++ 0#4 ++ 0#4) (hb : r.bits = t ++ 0#4 ++ 0#4 ++ 0#4) :
    r.selects (packXYN t x y n) = true := by
  rw [OpcodeRow.selects, hm, hb, packXYN, append_and, append_and, append_and, BitVec.and_zero, BitVec.and_zero,
    BitVec.and_zero, beq_iff_eq]
  exact congrArg (· ++ 0#4 ++ 0#4 ++ 0#4) BitVec.and_allOnes

theorem cls : Statement .cls := ⟨⟨2, 0x00E0, 0xFFFF⟩, by decide, rfl, by decide⟩
theorem ret : Statement .ret := ⟨⟨3, 0x00EE, 0xFFFF⟩, by decide, rfl, by decide⟩
theorem sys (nnn : BitVec 12) : Statement (.sys nnn) := ⟨⟨1, 0x0000, 0xF000⟩, by decide, rfl, selects_NNN nnn rfl rfl⟩
theorem jp (nnn : BitVec 12) : Statement (.jp nnn) := ⟨⟨4, 0x1000, 0xF000⟩, by decide, rfl, selects_NNN nnn rfl rfl⟩
theorem call (nnn : BitVec 12) : Statement (.call nnn) := ⟨⟨5, 0x2000, 0xF000⟩, by decide, rfl, selects_NNN nnn rfl rfl⟩
theorem seImm (x : Reg) (kk : Byte) : Statement (.seImm x kk) := ⟨⟨6, 0x3000, 0xF000⟩, by decide, rfl, selects_XKK x kk rfl rfl⟩
theorem sneImm (x : Reg) (kk : Byte) : Statement (.sneImm x kk) := ⟨⟨7, 0x4000, 0xF000⟩, by decide, rfl, selects_XKK x kk rfl rfl⟩
theorem seReg (x y : Reg) : Statement (.seReg x y) := ⟨⟨8, 0x5000, 0xF00F⟩, by decide, rfl, selects_XY x y 0 rfl rfl⟩
theorem ldImm (x : Reg) (kk : Byte) : Statement (.ldImm x kk) := ⟨⟨9, 0x6000, 0xF000⟩, by decide, rfl, selects_XKK x kk rfl rfl⟩
theorem addImm (x : Reg) (kk : Byte) : Statement (.addImm x kk) := ⟨⟨10, 0x7000, 0xF000⟩, by decide, rfl, selects_XKK x kk rfl rfl⟩
theorem ldReg (x y : Reg) : Statement (.ldReg x y) := ⟨⟨11, 0x8000, 0xF00F⟩, by decide, rfl, selects_XY x y 0 rfl rfl⟩
theorem orReg (x y : Reg) : Statement (.orReg x y) := ⟨⟨12, 0x8001, 0xF00F⟩, by decide, rfl, selects_XY x y 1 rfl rfl⟩
theorem andReg (x y : Reg) : Statement (.andReg x y) := ⟨⟨13, 0x8002, 0xF00F⟩, by decide, rfl, selects_XY x y 2 rfl rfl⟩
theorem xorReg (x y : Reg) : Statement (.xorReg x y) := ⟨⟨14, 0x8003, 0xF00F⟩, by decide, rfl, selects_XY x y 3 rfl rfl⟩
theorem addReg (x y : Reg) : Statement (.addReg x y) := ⟨⟨15, 0x8004, 0xF00F⟩, by decide, rfl, selects_XY x y 4 rfl rfl⟩
theorem subReg (x y : Reg) : Statement (.subReg x y) := ⟨⟨16, 0x8005, 0xF00F⟩, by decide, rfl, selects_XY x y 5 rfl rfl⟩
theorem shr (x y : Reg) : Statement (.shr x y) := ⟨⟨17, 0x8006, 0xF00F⟩, by decide, rfl, selects_XY x y 6 rfl rfl⟩
theorem subn (x y : Reg) : Statement (.subn x y) := ⟨⟨18, 0x8007, 0xF00F⟩, by decide, rfl, selects_XY x y 7 rfl rfl⟩
theorem shl (x y : Reg) : Statement (.shl x y) := ⟨⟨19, 0x800E, 0xF00F⟩, by decide, rfl, selects_XY x y 14 rfl rfl⟩
theorem sneReg (x y : Reg) : Statement (.sneReg x y) := ⟨⟨20, 0x9000, 0xF00F⟩, by decide, rfl, selects_XY x y 0 rfl rfl⟩
theorem ldI (nnn : BitVec 12) : Statement (.ldI nnn) := ⟨⟨21, 0xA000, 0xF000⟩, by decide, rfl, selects_NNN nnn rfl rfl⟩
theorem jpV0 (nnn : BitVec 12) : Statement (.jpV0 nnn) := ⟨⟨22, 0xB000, 0xF000⟩, by decide, rfl, selects_NNN nnn rfl rfl⟩
theorem rnd (x : Reg) (kk : Byte) : Statement (.rnd x kk) := ⟨⟨23, 0xC000, 0xF000⟩, by decide, rfl, selects_XKK x kk rfl rfl⟩
theorem drw (x y : Reg) (n : Fin 16) : Statement (.drw x y n) := ⟨⟨24, 0xD000, 0xF000⟩, by decide, rfl, selects_XYN x y n rfl rfl⟩
theorem skp (x : Reg) : Statement (.skp x) := ⟨⟨25, 0xE09E, 0xF0FF⟩, by decide, rfl, selects_X x 0x9E rfl rfl⟩
theorem sknp (x : Reg) : Statement (.sknp x) := ⟨⟨26, 0xE0A1, 0xF0FF⟩, by decide, rfl, selects_X x 0xA1 rfl rfl⟩
theorem ldVxDt (x : Reg) : Statement (.ldVxDt x) := ⟨⟨27, 0xF007, 0xF0FF⟩, by decide, rfl, selects_X x 0x07 rfl rfl⟩
theorem ldVxK (x : Reg) : Statement (.ldVxK x) := ⟨⟨28, 0xF00A, 0xF0FF⟩, by decide, rfl, selects_X x 0x0A rfl rfl⟩
theorem ldDtVx (x : Reg) : Statement (.ldDtVx x) := ⟨⟨29, 0xF015, 0xF0FF⟩, by decide, rfl, selects_X x 0x15 rfl rfl⟩
theorem ldStVx (x : Reg) : Statement (.ldStVx x) := ⟨⟨30, 0xF018, 0xF0FF⟩, by decide, rfl, selects_X x 0x18 rfl rfl⟩
theorem addI (x : Reg) : Statement (.addI x) := ⟨⟨31, 0xF01E, 0xF0FF⟩, by decide, rfl, selects_X x 0x1E rfl rfl⟩
theorem ldF (x : Reg) : Statement (.ldF x) := ⟨⟨32, 0xF029, 0xF0FF⟩, by decide, rfl, selects_X x 0x29 rfl rfl⟩
theorem ldB (x : Reg) : Statement (.ldB x) := ⟨⟨33, 0xF033, 0xF0FF⟩, by decide, rfl, selects_X x 0x33 rfl rfl⟩
theorem ldMemVx (x : Reg) : Statement (.ldMemVx x) := ⟨⟨34, 0xF055, 0xF0FF⟩, by decide, rfl, selects_X x 0x55 rfl rfl⟩
theorem ldVxMem (x : Reg) : Statement (.ldVxMem x) := ⟨⟨35, 0xF065, 0xF0FF⟩, by decide, rfl, selects_X x 0x65 rfl rfl⟩

end Sys2Proof.Laws.RowSelected
end

