-- ==== Sys2Proof/Machine/Assembly.lean ====
section
/-! DEFINITION. The assembly text of an instruction, in the syntax of R82 (decision D19). It carries no semantics. -/

namespace Sys2Proof

/-- One upper-case hexadecimal digit. -/
def hexDigit (n : Nat) : String := (Nat.digitChar (n % 16)).toUpper.toString

/-- `V0` to `VF`. -/
def Reg.asm (x : Reg) : String := "V" ++ hexDigit x.val

/-- A byte immediate, `0x` and two digits. -/
def byteAsm (kk : Byte) : String := "0x" ++ hexDigit (kk.toNat / 16) ++ hexDigit kk.toNat

/-- An address immediate, `0x` and three digits. -/
def addrAsm (nnn : BitVec 12) : String :=
  "0x" ++ hexDigit (nnn.toNat / 256) ++ hexDigit (nnn.toNat / 16) ++ hexDigit nnn.toNat

/-- `MNEMONIC operand, operand` (R74, R82). -/
def Instr.asm : Instr → String
  | .cls => "CLS"
  | .ret => "RET"
  | .sys nnn => "SYS " ++ addrAsm nnn
  | .jp nnn => "JP " ++ addrAsm nnn
  | .call nnn => "CALL " ++ addrAsm nnn
  | .seImm x kk => "SE " ++ x.asm ++ ", " ++ byteAsm kk
  | .sneImm x kk => "SNE " ++ x.asm ++ ", " ++ byteAsm kk
  | .seReg x y => "SE " ++ x.asm ++ ", " ++ y.asm
  | .ldImm x kk => "LD " ++ x.asm ++ ", " ++ byteAsm kk
  | .addImm x kk => "ADD " ++ x.asm ++ ", " ++ byteAsm kk
  | .ldReg x y => "LD " ++ x.asm ++ ", " ++ y.asm
  | .orReg x y => "OR " ++ x.asm ++ ", " ++ y.asm
  | .andReg x y => "AND " ++ x.asm ++ ", " ++ y.asm
  | .xorReg x y => "XOR " ++ x.asm ++ ", " ++ y.asm
  | .addReg x y => "ADD " ++ x.asm ++ ", " ++ y.asm
  | .subReg x y => "SUB " ++ x.asm ++ ", " ++ y.asm
  | .shr x y => "SHR " ++ x.asm ++ ", " ++ y.asm
  | .subn x y => "SUBN " ++ x.asm ++ ", " ++ y.asm
  | .shl x y => "SHL " ++ x.asm ++ ", " ++ y.asm
  | .sneReg x y => "SNE " ++ x.asm ++ ", " ++ y.asm
  | .ldI nnn => "LD I, " ++ addrAsm nnn
  | .jpV0 nnn => "JP V0, " ++ addrAsm nnn
  | .rnd x kk => "RND " ++ x.asm ++ ", " ++ byteAsm kk
  | .drw x y n => "DRW " ++ x.asm ++ ", " ++ y.asm ++ ", 0x" ++ hexDigit n.val
  | .skp x => "SKP " ++ x.asm
  | .sknp x => "SKNP " ++ x.asm
  | .ldVxDt x => "LD " ++ x.asm ++ ", DT"
  | .ldVxK x => "LD " ++ x.asm ++ ", K"
  | .ldDtVx x => "LD DT, " ++ x.asm
  | .ldStVx x => "LD ST, " ++ x.asm
  | .addI x => "ADD I, " ++ x.asm
  | .ldF x => "LD F, " ++ x.asm
  | .ldB x => "LD B, " ++ x.asm
  | .ldMemVx x => "LD [I], " ++ x.asm
  | .ldVxMem x => "LD " ++ x.asm ++ ", [I]"

end Sys2Proof
end

