-- ==== Sys2Proof/Tests/Slice0.lean ====
section
/-! SUPPORT. Small tests of one step each, expected results from spec/95_test_vectors.md (part and row cited), decode
tests from the patterns of R74, and the witnesses that the statements' hypotheses can be met. -/

namespace Sys2Proof.Tests

open Sys2Proof Sys2Proof.Machine

/-- The next state, where there is one. -/
def nextOf : Host.Outcome State Fault Refusal → Option State
  | .next t => some t
  | .fault _ => none
  | .refused _ => none

/-- Reset, changed by `f`, with the word `w` placed where it is fetched. -/
def start (w : Nat) (f : State → State) : State := (f State.reset).withFetchWord 16 w

/-- One step from there. -/
def run (w : Nat) (f : State → State) : Option State := nextOf (step (start w f))

/-- The exception that step records. -/
def faultOf (w : Nat) (f : State → State) : Option (Status × Word) := (run w f).map fun t => (t.status, t.pc)

/-! ### WellFormed: each check refuses an ill-formed term -/

theorem test_wellFormed_sys_is_not_cls : (Instr.sys 0x0E0).wellFormed = false := by decide
theorem test_wellFormed_sys_is_not_ret : (Instr.sys 0x0EE).wellFormed = false := by decide
theorem test_wellFormed_sys : (Instr.sys 0x0E1).wellFormed = true := by decide

/-! ### Decode: one word per row of R74, its digits written out from the pattern -/

theorem test_decode_sys : decodeTableWord 16 0x0123 = some (.sys 0x123) := by decide
theorem test_decode_cls : decodeTableWord 16 0x00E0 = some .cls := by decide
theorem test_decode_ret : decodeTableWord 16 0x00EE = some .ret := by decide
theorem test_decode_jp : decodeTableWord 16 0x1ABC = some (.jp 0xABC) := by decide
theorem test_decode_call : decodeTableWord 16 0x2F01 = some (.call 0xF01) := by decide
theorem test_decode_seImm : decodeTableWord 16 0x3A05 = some (.seImm 10 0x05) := by decide
theorem test_decode_sneImm : decodeTableWord 16 0x4B7E = some (.sneImm 11 0x7E) := by decide
theorem test_decode_seReg : decodeTableWord 16 0x5AB0 = some (.seReg 10 11) := by decide
theorem test_decode_ldImm : decodeTableWord 16 0x6A05 = some (.ldImm 10 0x05) := by decide
theorem test_decode_addImm : decodeTableWord 16 0x73FF = some (.addImm 3 0xFF) := by decide
theorem test_decode_ldReg : decodeTableWord 16 0x8AB0 = some (.ldReg 10 11) := by decide
theorem test_decode_orReg : decodeTableWord 16 0x8AB1 = some (.orReg 10 11) := by decide
theorem test_decode_andReg : decodeTableWord 16 0x8AB2 = some (.andReg 10 11) := by decide
theorem test_decode_xorReg : decodeTableWord 16 0x8AB3 = some (.xorReg 10 11) := by decide
theorem test_decode_addReg : decodeTableWord 16 0x8AB4 = some (.addReg 10 11) := by decide
theorem test_decode_subReg : decodeTableWord 16 0x8AB5 = some (.subReg 10 11) := by decide
theorem test_decode_shr : decodeTableWord 16 0x8AB6 = some (.shr 10 11) := by decide
theorem test_decode_subn : decodeTableWord 16 0x8AB7 = some (.subn 10 11) := by decide
theorem test_decode_shl : decodeTableWord 16 0x8ABE = some (.shl 10 11) := by decide
theorem test_decode_sneReg : decodeTableWord 16 0x9AB0 = some (.sneReg 10 11) := by decide
theorem test_decode_ldI : decodeTableWord 16 0xA123 = some (.ldI 0x123) := by decide
theorem test_decode_jpV0 : decodeTableWord 16 0xB30F = some (.jpV0 0x30F) := by decide
theorem test_decode_rnd : decodeTableWord 16 0xC10F = some (.rnd 1 0x0F) := by decide
theorem test_decode_drw : decodeTableWord 16 0xD12F = some (.drw 1 2 15) := by decide
theorem test_decode_skp : decodeTableWord 16 0xE09E = some (.skp 0) := by decide
theorem test_decode_sknp : decodeTableWord 16 0xEFA1 = some (.sknp 15) := by decide
theorem test_decode_ldVxDt : decodeTableWord 16 0xF307 = some (.ldVxDt 3) := by decide
theorem test_decode_ldVxK : decodeTableWord 16 0xF50A = some (.ldVxK 5) := by decide
theorem test_decode_ldDtVx : decodeTableWord 16 0xF015 = some (.ldDtVx 0) := by decide
theorem test_decode_ldStVx : decodeTableWord 16 0xF418 = some (.ldStVx 4) := by decide
theorem test_decode_addI : decodeTableWord 16 0xF21E = some (.addI 2) := by decide
theorem test_decode_ldF : decodeTableWord 16 0xFF29 = some (.ldF 15) := by decide
theorem test_decode_ldB : decodeTableWord 16 0xF033 = some (.ldB 0) := by decide
theorem test_decode_ldMemVx : decodeTableWord 16 0xF355 = some (.ldMemVx 3) := by decide
theorem test_decode_ldVxMem : decodeTableWord 16 0xF265 = some (.ldVxMem 2) := by decide

/-- The illegal words that 95 §2.1 lists. -/
theorem test_decode_illegal : ∀ w ∈ [0x5AB1, 0x5ABF, 0x5008, 0x9AB1, 0x9ABE, 0x8AB8, 0x8AB9, 0x8ABA, 0x8ABB, 0x8ABC,
    0x8ABD, 0x8ABF, 0xE000, 0xE09F, 0xE0A0, 0xE19D, 0xE0FF, 0xF000, 0xF001, 0xF008, 0xF016, 0xF01F, 0xF030, 0xF056,
    0xF075, 0xF085, 0xF0FF], decodeTableWord 16 w = none := by decide

theorem test_decode_truncated : decodeBytes [0x6A] = .error .truncated := by decide

/-- R83: `6A05` is stored as the bytes `6A 05`. -/
theorem test_encodeBytes : encodeBytes (.ldImm 10 0x05) = [0x6A, 0x05] := by decide

theorem test_asm : (Instr.ldMemVx 10).asm = "LD [I], VA" := by decide

/-! ### Control transfer (95 §2.2) -/

theorem test_sys_row27 : faultOf 0x0123 id = some (.faulted (.illegalInstruction 0x0123), 0x200) := by decide
theorem test_ret_row8 : (run 0x00EE fun s => { s with sp := 1, stack := s.stack.set 0 0x0200, pc := 0x300 }).map
    (fun t => (t.sp, t.pc, t.stack[0])) = some (0, 0x202, 0x200) := by decide
theorem test_ret_row10 : faultOf 0x00EE id = some (.faulted .stackUnderflow, 0x200) := by decide
theorem test_jp_row4 : (run 0x1FFF id).bind (fun t => nextOf (step t)) =
    (run 0x1FFF id).map (fun t => { t with status := .faulted (.memoryOutOfRange 0xFFF) }) := by decide
theorem test_call_row6 : (run 0x2ABC fun s => { s with sp := 15, pc := 0x350 }).map
    (fun t => (t.sp, t.pc, t.stack[15])) = some (16, 0xABC, 0x350) := by decide
theorem test_call_row7 : faultOf 0x2ABC (fun s => { s with sp := 16 }) = some (.faulted .stackOverflow, 0x200) := by
  decide
theorem test_seImm_row11 : (run 0x3A05 fun s => s.writeV 10 5).map State.pc = some 0x204 := by decide
theorem test_sneImm_row13 : (run 0x4A05 fun s => s.writeV 10 5).map State.pc = some 0x202 := by decide
theorem test_seReg_row16 : (run 0x5120 fun s => (s.writeV 1 1).writeV 2 2).map State.pc = some 0x202 := by decide
theorem test_sneReg_row18 : (run 0x9120 fun s => (s.writeV 1 1).writeV 2 2).map State.pc = some 0x204 := by decide
theorem test_jpV0_row23 : (run 0xB300 fun s => (s.writeV 0 0x04).writeV 3 0x50).map State.pc = some 0x304 := by decide
theorem test_jpV0_row23_variant : (nextOf (stepWith { Config.record with jumpIndexedUsesVx := true }
    (start 0xB300 fun s => (s.writeV 0 0x04).writeV 3 0x50))).map State.pc = some 0x350 := by decide

/-! ### Register and arithmetic (95 §2.3) -/

/-- `V[1]`, `V[2]`, `V[15]`. -/
def regs (t : State) : Byte × Byte × Byte := (t.V[1], t.V[2], t.V[15])
/-- `a` in `V[1]`, `b` in `V[2]`, `f` in `V[15]`. -/
def abf (a b f : Byte) (s : State) : State := ((s.writeV 1 a).writeV 2 b).writeV 15 f

theorem test_ldImm_row2 : (run 0x6F07 id).map regs = some (0, 0, 7) := by decide
theorem test_addImm_row3 : (run 0x71FF (abf 1 0 0)).map regs = some (0, 0, 0) := by decide
theorem test_ldReg_row6 : (run 0x8120 (abf 1 9 7)).map regs = some (9, 9, 7) := by decide
theorem test_orReg_row8 : (run 0x8121 (abf 0xF0 0x0F 7)).map regs = some (0xFF, 0x0F, 7) := by decide
theorem test_andReg_row9 : (run 0x8122 (abf 0xF0 0x3C 7)).map regs = some (0x30, 0x3C, 7) := by decide
theorem test_xorReg_row10 : (run 0x8123 (abf 0xF0 0x3C 7)).map regs = some (0xCC, 0x3C, 7) := by decide
theorem test_addReg_row14 : (run 0x8124 (abf 255 1 0)).map regs = some (0, 1, 1) := by decide
theorem test_addReg_row18 : (run 0x8F14 (abf 100 0 200)).map regs = some (100, 0, 1) := by decide
theorem test_subReg_row24 : (run 0x8125 (abf 5 6 9)).map regs = some (0xFF, 6, 0) := by decide
theorem test_subReg_row23 : (run 0x8125 (abf 5 5 9)).map regs = some (0, 5, 1) := by decide
theorem test_shr_row40 : (run 0x8126 (abf 0x04 0xFF 9)).map regs = some (0x02, 0xFF, 0) := by decide
theorem test_shr_row40_variant : (nextOf (stepWith { Config.record with shiftSource := .vy }
    (start 0x8126 (abf 0x04 0xFF 9)))).map regs = some (0x7F, 0xFF, 1) := by decide
theorem test_subn_row32 : (run 0x8127 (abf 5 7 9)).map regs = some (2, 7, 1) := by decide
theorem test_subn_row33 : (run 0x8127 (abf 7 5 9)).map regs = some (0xFE, 5, 0) := by decide
theorem test_shl_row43 : (run 0x810E (abf 0x81 0 9)).map regs = some (0x02, 0, 1) := by decide
theorem test_shl_row48 : (run 0x8F0E (abf 0 0 0x40)).map regs = some (0, 0, 0) := by decide
theorem test_rnd_row49 : (nextOf (execRndWith 0xA7 1 0x0F (abf 0x55 0 9 State.reset))).map regs = some (0x07, 0, 9) := by
  decide

/-! ### Display (95 §2.4) -/

theorem test_cls_row1 : (run 0x00E0 fun s => { s with fb := s.fb.set 3 0xF00 }).map (fun t => (t.fb, t.redraw)) =
    some (Vector.replicate 32 0, true) := by decide
/-- Row 6: columns 62, 63, 0, 1 of row 31 and columns 62, 5 of row 0. -/
theorem test_drw_row6 : (run 0xD012 fun s => { (s.writeV 0 62).writeV 1 31 with
      I := 0x300, mem := s.mem.writeBytes 0x300 [0xF0, 0x81] }).map (fun t => (t.fb, t.V[15], t.redraw)) =
    some (((Vector.replicate 32 0).set 31 0xC000000000000003).set 0 0x4000000000000020, 0, true) := by decide
/-- Row 5: one pixel turned off, one turned on. -/
theorem test_drw_row5 : (run 0xD011 fun s => { s with
      I := 0x300, mem := s.mem.writeBytes 0x300 [0xC0], fb := s.fb.set 0 2 }).map (fun t => (t.fb, t.V[15])) = some ((Vector.replicate 32 0).set 0 1, 1) := by decide

/-! ### Keypad and timers (95 §2.5, §2.6) -/

theorem test_skp_row1 : (run 0xE19E fun s => { s.writeV 1 3 with key := 0x0008 }).map
    (fun t => (t.pc, t.key)) = some (0x204, 0x0008) := by decide
theorem test_skp_row3 : faultOf 0xE19E (fun s => s.writeV 1 16) = some (.faulted (.invalidKeyIndex 16), 0x200) := by
  decide
theorem test_sknp_row5 : (run 0xE1A1 fun s => { s.writeV 1 3 with key := 0x0008 }).map State.pc = some 0x202 := by decide
theorem test_sknp_row7 : faultOf 0xE1A1 (fun s => s.writeV 1 16) = some (.faulted (.invalidKeyIndex 16), 0x200) := by
  decide
theorem test_ldVxK_row9 : (run 0xF50A fun s => { s with key := 0x0208 }).map (fun t => (t.V[5], t.pc)) =
    some (3, 0x202) := by decide
theorem test_ldVxK_row12 : (run 0xF50A fun s => { s.writeV 5 0x77 with DT := 1, div := 9 }).map
    (fun t => (t.V[5], t.pc, t.div, t.DT)) = some (0x77, 0x200, 0, 0) := by decide
theorem test_ldVxDt_row14 : (run 0xF307 fun s => { s with DT := 5, div := 9 }).map (fun t => (t.V[3], t.DT, t.div)) =
    some (5, 4, 0) := by decide
theorem test_ldDtVx_row16 : (run 0xF015 fun s => { s.writeV 0 5 with div := 9 }).map (fun t => (t.DT, t.div)) =
    some (4, 0) := by decide
theorem test_ldStVx_row19 : (run 0xF418 fun s => { s.writeV 4 1 with div := 9 }).map
    (fun t => (t.ST, t.div, t.stExpired, t.soundActive)) = some (0, 0, true, false) := by decide
/-- 95 §2.6 row 6: a faulting step does not tick. -/
theorem test_fault_does_not_tick : (run 0x00EE fun s => { s with div := 9, DT := 7 }).map
    (fun t => (t.status, t.div, t.DT)) = some (.faulted .stackUnderflow, 9, 7) := by decide

/-! ### Index register and memory (95 §2.7) -/

theorem test_ldI_row1 : (run 0xA123 id).map State.I = some 0x123 := by decide
theorem test_addI_row6 : (run 0xF01E fun s => { s.writeV 0 1 with I := 0xFFFF }).map State.I = some 0 := by decide
theorem test_addI_row4 : (run 0xF01E fun s => { s.writeV 0 1 with I := 0xFFF }).map (fun t => (t.I, t.V[15])) =
    some (0x1000, 0) := by decide
theorem test_ldF_row8 : (run 0xF129 fun s => s.writeV 1 0x0A).map State.I = some 0x32 := by decide
theorem test_ldF_row11 : faultOf 0xF129 (fun s => s.writeV 1 16) = some (.faulted (.invalidFontDigit 16), 0x200) := by
  decide
theorem test_ldB_row18 : (run 0xF033 fun s => { s.writeV 0 255 with I := 0xFFD }).map
    (fun t => t.mem.readBytes 0xFFD 3) = some [2, 5, 5] := by decide
theorem test_ldB_row19 : (run 0xF033 fun s => { s with I := 0xFFE }).map (fun t => (t.status, t.mem.readBytes 0xFFE 2)) =
    some (.faulted (.memoryOutOfRange 0x1000), [0, 0]) := by decide
theorem test_ldMemVx_row21 : (run 0xF355 fun s => { (((s.writeV 0 1).writeV 1 2).writeV 2 3).writeV 3 4 with
      I := 0x300, mem := s.mem.write 0x304 0xEE }).map (fun t => (t.mem.readBytes 0x300 5, t.I)) =
    some ([1, 2, 3, 4, 0xEE], 0x300) := by decide
theorem test_ldMemVx_row24 : faultOf 0xFF55 (fun s => { s with I := 0xFF1 }) =
    some (.faulted (.memoryOutOfRange 0x1000), 0x200) := by decide
/-- Row 27: the first 16 bytes of the font. -/
theorem test_ldVxMem_row27 : (run 0xFF65 id).map (fun t => t.V.toList) = some [0xF0, 0x90, 0x90, 0x90, 0xF0, 0x20,
    0x60, 0x20, 0x20, 0x70, 0xF0, 0x10, 0xF0, 0x80, 0xF0, 0xF0] := by decide
theorem test_ldVxMem_row28 : faultOf 0xF165 (fun s => { s with I := 0xFFF }) =
    some (.faulted (.memoryOutOfRange 0x1000), 0x200) := by decide

/-! ### Reset (95 §2.8) -/

/-- Row 1. -/
theorem test_boot_row1 : ((boot [0x6A, 0x05]).toOption.map fun s => (s.mem.readBytes 0x1FF 4, s.pc)) =
    some ([0, 0x6A, 0x05, 0], 0x200) := by decide
/-- Row 4: one byte too long. -/
theorem test_boot_row4 : (bootWith Config.record (List.replicate 3585 0xAA)).toOption = none := by
  rw [bootWith, if_pos (by rw [List.length_replicate]; decide)]
  rfl

/-! ### Witnesses: the hypotheses of each statement can be met, each clause at a boundary -/

theorem witness_DecodeOfEncodeIsIdentity : (Instr.sys 0xFFF).wellFormed = true := by decide

theorem witness_EncodeOfDecodeIsTheWord : decodeWord 0xFF65 = .ok (.ldVxMem 15) := by decide

theorem witness_LowNibbleOfFamilies5And9 :
    ((0x5001 : Word).toNat / 4096 = 5 ∧ (0x5001 : Word).toNat % 16 ≠ 0) ∧
    ((0x9FFF : Word).toNat / 4096 = 9 ∧ (0x9FFF : Word).toNat % 16 ≠ 0) ∧
    ((0x8FFF : Word).toNat / 4096 ≠ 5 ∧ (0x8FFF : Word).toNat / 4096 ≠ 9) ∧ (0x9FF0 : Word).toNat % 16 = 0 := by decide

/-- Reset with `pc` at the last word of memory and `w` there. -/
def last (w : Nat) : State := start w fun s => { s with pc := 0xFFE }

theorem witness_StepRunsTheDecodedInstruction_fetch :
    { State.reset with pc := 0xFFF }.status = .running ∧ { State.reset with pc := 0xFFF }.pc.toNat > 0xFFE := by decide
theorem witness_StepRunsTheDecodedInstruction_reject : (last 0xFFFF).status = .running ∧ (last 0xFFFF).pc.toNat ≤ 0xFFE ∧
    decodeWord ((last 0xFFFF).mem.read 0xFFE ++ (last 0xFFFF).mem.read (0xFFE + 1)) =
      .error (.illegalInstruction 0xFFFF) := by decide
theorem witness_StepRunsTheDecodedInstruction_next : (last 0x6007).pc.toNat ≤ 0xFFE ∧
    decodeWord ((last 0x6007).mem.read 0xFFE ++ (last 0x6007).mem.read (0xFFE + 1)) = .ok (.ldImm 0 7) ∧
    (nextOf (exec (.ldImm 0 7) (last 0x6007))).map State.status = some .running := by decide
theorem witness_StepRunsTheDecodedInstruction_raise : (last 0x00EE).pc.toNat ≤ 0xFFE ∧
    decodeWord ((last 0x00EE).mem.read 0xFFE ++ (last 0x00EE).mem.read (0xFFE + 1)) = .ok .ret ∧
    (nextOf (exec .ret (last 0x00EE))).map State.status = some (.faulted .stackUnderflow) := by decide

theorem witness_TickFollowsANonFaultingInstruction : ∃ (s t : State) (i : Instr), s.status = .running ∧
    s.pc.toNat ≤ 0xFFE ∧ decodeWord (s.mem.readWord s.pc.toNat) = .ok i ∧ exec i s = .next t ∧ t.status = .running ∧
    t.div.val = 9 ∧ t.ST.toNat = 1 :=
  ⟨start 0x1200 fun s => { s with div := 9, ST := 1 }, _, .jp 0x200, by decide, by decide, by decide, rfl, by decide,
    by decide, by decide⟩

theorem witness_FaultIsPreciseAndTerminal : ∃ s t : State, step s = .next t ∧ t.status = .faulted .stackUnderflow ∧
    ∀ a ∈ [HostAction.step, .setKey 15 true, .ackRedraw], ∀ rom, a ≠ .reset rom :=
  ⟨start 0x00EE fun s => { s with div := 9, DT := 7, redraw := true }, _, rfl, rfl, by simp⟩

/-- R172: keys and redraw of a faulted block stay as the fault left them. -/
theorem test_faulted_block_is_frozen : Block.acts (some { State.reset with status := .faulted .stackUnderflow, redraw := true })
    [.setKey 15 true, .ackRedraw, .step] = some { State.reset with status := .faulted .stackUnderflow, redraw := true } := by
  decide

theorem witness_StepFaultsExactlyWhereTheSpecSays_safe :
    (start 0xFF55 fun s => { s with I := 0xFF0 }).status = .running ∧
    stepFault (start 0xFF55 fun s => { s with I := 0xFF0 }) = none := by decide
theorem witness_StepFaultsExactlyWhereTheSpecSays_fault :
    stepFault (start 0xFF55 fun s => { s with I := 0xFF1 }) = some (.memoryOutOfRange 0x1000) ∧
    stepFault { State.reset with pc := 0xFFF } = some (.memoryOutOfRange 0xFFF) ∧
    stepFault (start 0xD01F fun s => { s with I := 0xFF2 }) = some (.memoryOutOfRange 0x1000) ∧
    stepFault (start 0xF033 fun s => { s with I := 0xFFE }) = some (.memoryOutOfRange 0x1000) ∧
    stepFault (start 0xE09E fun s => s.writeV 0 16) = some (.invalidKeyIndex 16) ∧
    stepFault (start 0xF029 fun s => s.writeV 0 16) = some (.invalidFontDigit 16) ∧
    stepFault (start 0x2000 fun s => { s with sp := 16 }) = some .stackOverflow ∧
    stepFault (start 0x00EE id) = some .stackUnderflow ∧
    stepFault State.reset = some (.illegalInstruction 0) := by decide

theorem witness_IllegalWordsTrap : (last 0xFFFF).status = .running ∧ (last 0xFFFF).pc.toNat ≤ 0xFFE ∧
    isIllegalWord ((last 0xFFFF).mem.readWord (last 0xFFFF).pc.toNat).toNat = true ∧
    (nextOf (step (last 0xFFFF))).map State.status = some (.faulted (.illegalInstruction 0xFFFF)) := by decide

theorem witness_InvalidRegisterIndexIsUnreachable : ∃ t, (start 0xFF65 id).status = .running ∧
    step (start 0xFF65 id) = .next t := ⟨_, by decide, rfl⟩

theorem witness_StepKeepsTheInvariant : ∃ t, State.reset.Inv ∧ step State.reset = .next t :=
  ⟨_, ⟨rfl, fun _ h => absurd h (Nat.not_lt_zero _), by decide, fun _ h => by cases h⟩, rfl⟩

/-- The state after `k` steps, kept where there is none. -/
def walk (s : State) : Nat → State
  | 0 => s
  | k + 1 => (nextOf (step (walk s k))).getD (walk s k)

theorem walk_step {s : State} {k : Nat} (h : (nextOf (step (walk s k))).isSome = true) :
    step (walk s k) = .next (walk s (k + 1)) := by
  rw [walk]
  cases hs : step (walk s k) <;> simp_all [nextOf]

/-- `1200` at `0x200`, one step before a tick. -/
def loop : State := start 0x1200 fun s => { s with div := 9, DT := 3, ST := 1 }

theorem witness_TimersFallOnceInTenSteps : ∀ k, k < 1 → step (walk loop k) = .next (walk loop (k + 1)) ∧
    (walk loop (k + 1)).status = .running ∧
    ∀ x : Reg, decodeWord ((walk loop k).mem.readWord (walk loop k).pc.toNat) ≠ .ok (.ldDtVx x) ∧
      decodeWord ((walk loop k).mem.readWord (walk loop k).pc.toNat) ≠ .ok (.ldStVx x) := by
  have h : ∀ k, k < 1 → (nextOf (step (walk loop k))).isSome = true ∧ (walk loop (k + 1)).status = .running ∧
      ∀ x : Reg, decodeWord ((walk loop k).mem.readWord (walk loop k).pc.toNat) ≠ .ok (.ldDtVx x) ∧
        decodeWord ((walk loop k).mem.readWord (walk loop k).pc.toNat) ≠ .ok (.ldStVx x) := by decide
  exact fun k hk => ⟨walk_step (h k hk).1, (h k hk).2⟩

/-- The word `w` at `0x200` at the step that ticks. -/
def ticking (w : Nat) : State := start w fun s => { s.writeV 4 1 with div := 9, DT := 1 }

theorem witness_InstructionPrecedesItsTick : ∀ w ∈ [(0xF407, Instr.ldVxDt 4), (0xF415, .ldDtVx 4), (0xF418, .ldStVx 4)],
    (ticking w.1).status = .running ∧ (ticking w.1).pc.toNat ≤ 0xFFE ∧ (ticking w.1).div.val = 9 ∧
    decodeWord ((ticking w.1).mem.readWord (ticking w.1).pc.toNat) = .ok w.2 := by decide

/-- A timer write of `V[4] = 1` and then `1202` at `0x202`. -/
def writing (w : Nat) : State :=
  { start w (fun s => s.writeV 4 1) with mem := ((start w id).mem.writeWord 0x202 0x1202) }

theorem witness_WrittenTimerReachesZeroOnTime : ∀ w ∈ [(0xF415, Instr.ldDtVx 4), (0xF418, .ldStVx 4)],
    1 = (walk (writing w.1) 0).V[4].toNat ∧
    decodeWord ((walk (writing w.1) 0).mem.readWord (walk (writing w.1) 0).pc.toNat) = .ok w.2 ∧
    (∀ k, k < 10 * 1 → (nextOf (step (walk (writing w.1) k))).isSome = true ∧
      (walk (writing w.1) (k + 1)).status = .running) ∧
    (∀ k, k < 10 * 1 → 0 < k → decodeWord ((walk (writing w.1) k).mem.readWord (walk (writing w.1) k).pc.toNat) =
      .ok (.jp 0x202)) := by decide

theorem witness_RegistersChangeOnlyByTheirInstructions :
    (nextOf (exec (.addReg 0 1) ((State.reset.writeV 0 255).writeV 1 1))).map (fun t => t.V[15] != 0) = some true ∧
    (nextOf (exec (.ldVxMem 15) State.reset)).map (fun t => t.V[15] != 0) = some true := by decide

theorem witness_MemoryChangesOnlyByBcdAndDump : State.reset.mem.wf = true ∧
    (nextOf (exec (.ldB 0) { State.reset.writeV 0 255 with I := 0xFFD })).map (fun t => t.mem.read 0xFFF) = some 5 ∧
    (nextOf (exec (.ldMemVx 15) { State.reset.writeV 15 9 with I := 0xFF0 })).map (fun t => t.mem.read 0xFFF) = some 9 ∧
    State.reset.mem.read 0xFFF = 0 := by decide

theorem witness_DisplayChangesOnlyByClearAndDraw :
    (nextOf (exec (.drw 0 0 1) State.reset)).map (fun t => (t.fb != State.reset.fb, t.redraw, t.status)) =
      some (true, true, .running) ∧
    (nextOf (exec .cls { State.reset with fb := State.reset.fb.set 31 1 })).map (fun t => t.fb.toList.getLast?) =
      some (some 0) := by decide

theorem witness_SpecialRegistersChangeOnlyByTheirInstructions :
    (nextOf (exec (.ldI 0xFFF) State.reset)).map State.I = some 0xFFF ∧
    (nextOf (exec (.call 0) State.reset)).map (fun t => (t.sp, t.stack[0])) = some (1, 0x200) ∧
    (nextOf (exec (.ldDtVx 0) (State.reset.writeV 0 1))).map State.DT = some 1 ∧
    (nextOf (exec (.ldStVx 0) (State.reset.writeV 0 1))).map State.ST = some 1 ∧
    (nextOf (exec (.rnd 0 0) State.reset)).map State.draws = some 1 := by decide

theorem witness_EachInstructionSetsPcByItsClass : State.reset.status = .running ∧
    (nextOf (exec (.sys 0) State.reset)).map State.status = some (.faulted (.illegalInstruction 0)) ∧
    (nextOf (exec (.ldVxK 0) State.reset)).map State.status = some .running ∧
    (nextOf (exec .ret { State.reset with sp := 16 })).map State.status = some .running := by decide

theorem witness_MemoriesThatReadAlikeAreEqual :
    Memory.wf [(0, 0), (0xFFF, 1)] = true ∧ ∀ a, a < 4096 →
      Memory.read [(0, 0), (0xFFF, 1)] a = Memory.read ((Memory.write [] 0xFFF 1).write 0 0) a :=
  ⟨by decide, fun _ _ => rfl⟩

theorem witness_SysTakesIllegalInstruction : { Config.record with sysPolicy := .nop }.sysPolicy = .nop := by decide

theorem witness_ReturnPopsAndResumesAfterTheCall : 0 < { State.reset with sp := 16 }.sp.val ∧
    0 < { State.reset with sp := 1 }.sp.val ∧ State.reset.sp.val = 0 := by decide

theorem witness_CallPushesItsOwnAddress : { State.reset with sp := 15 }.sp.val < 16 ∧
    { State.reset with sp := 16 }.sp.val = 16 := by decide

theorem witness_CallThenReturnResumesAfterTheCall : ∃ t, { State.reset with sp := 15 }.sp.val < 16 ∧
    exec (.call 0xFFF) { State.reset with sp := 15 } = .next t ∧ { t with pc := 0x300 }.sp = t.sp ∧
    { t with pc := 0x300 }.stack = t.stack := ⟨_, by decide, rfl, rfl, rfl⟩

theorem witness_JumpReplacesPc : State.reset.status = .running ∧
    (nextOf (exec (.jp 0xFFF) State.reset)).map (fun t => decide (t.pc.toNat > 0xFFE)) = some true := by decide

theorem witness_IndexedJumpReplacesPc : State.reset.status = .running ∧
    (nextOf (exec (.jpV0 0xFFF) (State.reset.writeV 0 0xFF))).map (fun t => decide (t.pc.toNat > 0xFFE)) =
      some true := by decide

theorem witness_ShiftsWriteTheBitShiftedOut :
    0x80 = (match { Config.record with shiftSource := ShiftSource.vy }.shiftSource with
      | .vx => (State.reset.writeV 1 0x80).V[0] | .vy => (State.reset.writeV 1 0x80).V[1]).toNat := by decide

theorem witness_DrawTogglesTheSpritePixels :
    { State.reset with I := 0xFF1 }.I.toNat + (15 : Fin 16).val - 1 ≤ 0xFFF ∧ (0 : Fin 16).val = 0 ∧
    (0 < (15 : Fin 16).val ∧ { State.reset with I := 0xFF2 }.I.toNat + (15 : Fin 16).val - 1 > 0xFFF) := by decide

theorem witness_DrawingTwiceRestoresTheFramebuffer :
    (nextOf (exec (.drw 1 1 5) State.reset)).map (fun t => (t.mem == State.reset.mem, t.I == State.reset.I,
      t.V[1] == State.reset.V[1], pixel State.reset.fb 0 0, pixel t.fb 0 0)) =
      some (true, true, true, false, true) := by decide

theorem witness_KeySkips : (State.reset.writeV 0 15).V[0].toNat ≤ 15 ∧ (State.reset.writeV 0 16).V[0].toNat > 15 := by
  decide

theorem witness_KeyWaitTakesTheLeastPressedKey :
    ((0x8000 : BitVec 16).getLsbD (15 : Reg) = true ∧ ∀ j : Reg, j < 15 → (0x8000 : BitVec 16).getLsbD j = false) ∧
    ∀ k : Reg, State.reset.key.getLsbD k = false := by decide

theorem witness_FontDigitGivesItsGlyphAddress :
    (State.reset.writeV 0 15).V[0].toNat ≤ 15 ∧ (State.reset.writeV 0 16).V[0].toNat > 15 := by decide

theorem witness_BcdStoresThreeDigits : State.reset.mem.wf = true ∧ { State.reset with I := 0xFFD }.I.toNat + 2 ≤ 0xFFF ∧
    { State.reset with I := 0xFFE }.I.toNat + 2 > 0xFFF := by decide

theorem witness_RegisterDumpStoresFromI : State.reset.mem.wf = true ∧
    { State.reset with I := 0xFF0 }.I.toNat + (15 : Reg).val ≤ 0xFFF ∧
    { State.reset with I := 0xFF1 }.I.toNat + (15 : Reg).val > 0xFFF := by decide

theorem witness_RegisterLoadReadsFromI :
    { State.reset with I := 0xFFF }.I.toNat + (0 : Reg).val ≤ 0xFFF ∧
    { State.reset with I := 0x1000 }.I.toNat + (0 : Reg).val > 0xFFF := by decide

/-- 95 P5: `F155` stores the self-jump `1208` over the next word. -/
def patching : State := start 0xF155 fun s => { (s.writeV 0 0x12).writeV 1 0x08 with pc := 0x206, I := 0x208 }

/-- The premises of the statement on a dump and on a BCD store, but for the step itself. -/
def storesNextWord (s : State) (x : Reg) (i : Instr) (op : Word) : Prop :=
  s.status = .running ∧ s.mem.wf = true ∧ s.pc.toNat + 3 ≤ 0xFFF ∧ decodeWord (s.mem.readWord s.pc.toNat) = .ok i ∧
    (i = .ldMemVx x ∧ s.I.toNat + x.val ≤ 0xFFF ∧
        op = Claims.byteAfterDump s x (s.pc.toNat + 2) ++ Claims.byteAfterDump s x (s.pc.toNat + 3) ∨
      i = .ldB x ∧ s.I.toNat + 2 ≤ 0xFFF ∧
        op = Claims.byteAfterBcd s x (s.pc.toNat + 2) ++ Claims.byteAfterBcd s x (s.pc.toNat + 3))

theorem witness_StoredBytesAreFetchedByTheNextStep_dump :
    storesNextWord patching 1 (.ldMemVx 1) 0x1208 ∧ (nextOf (step patching)).isSome = true ∧
    decodeWord 0x1208 = .ok (.jp 0x208) := by
  refine ⟨?_, by decide⟩
  unfold storesNextWord
  decide

/-- `F055` at the last place of the range, storing `5F` as the high byte of the word at `0xFFE`. -/
def spoiling : State := start 0xF055 fun s => { s.writeV 0 0x5F with pc := 0xFFC, I := 0xFFE, mem := s.mem.write 0xFFF 0x01 }

theorem witness_StoredBytesAreFetchedByTheNextStep_dump_rejected :
    storesNextWord spoiling 0 (.ldMemVx 0) 0x5F01 ∧ (nextOf (step spoiling)).isSome = true ∧
    decodeWord 0x5F01 = .error (.illegalInstruction 0x5F01) := by
  refine ⟨?_, by decide⟩
  unfold storesNextWord
  decide

/-- `F033` stores the hundreds digit of 156 as the low byte of the next word, whose high byte is `hi`. -/
def patchingBcd (hi : Byte) : State :=
  start 0xF033 fun s => { s.writeV 0 156 with I := 0x203, mem := s.mem.write 0x202 hi }

theorem witness_StoredBytesAreFetchedByTheNextStep_bcd :
    storesNextWord (patchingBcd 0x60) 0 (.ldB 0) 0x6001 ∧ (nextOf (step (patchingBcd 0x60))).isSome = true ∧
    decodeWord 0x6001 = .ok (.ldImm 0 1) := by
  refine ⟨?_, by decide⟩
  unfold storesNextWord
  decide

theorem witness_StoredBytesAreFetchedByTheNextStep_bcd_rejected :
    storesNextWord (patchingBcd 0x50) 0 (.ldB 0) 0x5001 ∧ (nextOf (step (patchingBcd 0x50))).isSome = true ∧
    decodeWord 0x5001 = .error (.illegalInstruction 0x5001) := by
  refine ⟨?_, by decide⟩
  unfold storesNextWord
  decide

theorem witness_ResetFixesEveryPieceOfState : (List.replicate 3584 (0xAA : Byte)).length ≤ 3584 ∧
    3584 < (List.replicate 3585 (0xAA : Byte)).length := by
  rw [List.length_replicate, List.length_replicate]
  decide

theorem witness_FirstStepRunsTheRomsFirstInstruction : (Instr.drw 15 15 15).wellFormed = true ∧
    (List.replicate 3582 (0xAA : Byte)).length ≤ 3582 := by
  rw [List.length_replicate]
  decide

theorem witness_FailedResetLeavesNoState : (List.replicate 3584 (0xAA : Byte)).length ≤ 3584 ∧
    (List.replicate 3585 (0xAA : Byte)).length > 3584 ∧
    ∀ a ∈ [HostAction.step, .setKey 0 true, .ackRedraw], ∀ r, a ≠ .reset r := by
  rw [List.length_replicate, List.length_replicate]
  simp

theorem witness_SelfJumpOnlyRunsTheTimers : loop.ended := ⟨by decide, by decide, by decide⟩

theorem witness_HostInputsAndOutputs : ∃ t, { loop with redraw := true }.status = .running ∧
    step { loop with redraw := true } = .next t ∧ { loop with redraw := true }.redrawOut = true ∧
    t.stExpiredOut = true := ⟨_, by decide, rfl, by decide, by decide⟩
theorem witness_HostInputsAndOutputs_fault : stepFault (last 0x00EE) = some .stackUnderflow ∧
    (nextOf (step (last 0x00EE))).map State.statusOut = some (.faulted .stackUnderflow) := by decide

end Sys2Proof.Tests
end

section
/-! The variant machine at the defaults of R6. -/

namespace Sys2Proof.Machine

/-- The variant's decoder at the default of `DECODE_LAX_5_9` is the model of record's, by the definition of
`decodeWord`. -/
theorem decodeWordWith_record : decodeWordWith Config.record.decodeLax59 = decodeWord := rfl

/-- Settles O17: at the defaults both parts of the cycle that take parameters, the decoder and the execution, are
those of the model of record. -/
theorem variantAtTheDefaultsIsTheModelOfRecord : Obligations.VariantAtTheDefaultsIsTheModelOfRecord := by
  intro s
  have hexec : execWith Config.record = exec := funext₂ execWith_record
  calc stepWith Config.record s
      = cycle (decodeWordWith Config.record.decodeLax59) (execWith Config.record) s := rfl
    _ = cycle decodeWord exec s := by rw [decodeWordWith_record, hexec]
    _ = step s := rfl

end Sys2Proof.Machine
end

section
/-! Which fields a completed instruction changes (R21 to R29), field by field. -/

namespace Sys2Proof.Machine

/-! ### The special registers and memory (R22 to R26, R29, R50) -/

section Completed

variable {s t : State} {i : Instr}

theorem Completes.status_eq (h : Completes s i t) : t.status = s.status := by
  cases h <;> rfl

theorem Completes.key_eq (h : Completes s i t) : t.key = s.key := by
  cases h <;> rfl

theorem Completes.div_eq (h : Completes s i t) : t.div = s.div := by
  cases h <;> rfl

theorem Completes.I_changed (h : Completes s i t) (hne : t.I ≠ s.I) :
    (∃ nnn, i = .ldI nnn) ∨ (∃ x, i = .addI x) ∨ ∃ x, i = .ldF x := by
  cases h with
  | ldI nnn => exact .inl ⟨nnn, rfl⟩
  | addI x => exact .inr (.inl ⟨x, rfl⟩)
  | ldF x => exact .inr (.inr ⟨x, rfl⟩)
  | _ => exact absurd rfl hne

theorem Completes.sp_changed (h : Completes s i t) (hne : t.sp ≠ s.sp) :
    i = .ret ∨ ∃ nnn, i = .call nnn := by
  cases h with
  | ret => exact .inl rfl
  | call nnn => exact .inr ⟨nnn, rfl⟩
  | _ => exact absurd rfl hne

theorem Completes.stack_changed (h : Completes s i t) (hne : t.stack ≠ s.stack) :
    ∃ nnn, i = .call nnn := by
  cases h with
  | call nnn => exact ⟨nnn, rfl⟩
  | _ => exact absurd rfl hne

theorem Completes.DT_changed (h : Completes s i t) (hne : t.DT ≠ s.DT) :
    ∃ x, i = .ldDtVx x := by
  cases h with
  | ldDtVx x => exact ⟨x, rfl⟩
  | _ => exact absurd rfl hne

theorem Completes.ST_changed (h : Completes s i t) (hne : t.ST ≠ s.ST) :
    ∃ x, i = .ldStVx x := by
  cases h with
  | ldStVx x => exact ⟨x, rfl⟩
  | _ => exact absurd rfl hne

theorem Completes.draws_changed (h : Completes s i t) (hne : t.draws ≠ s.draws) :
    ∃ x kk, i = .rnd x kk := by
  cases h with
  | rnd x kk => exact ⟨x, kk, rfl⟩
  | _ => exact absurd rfl hne

/-- Memory changes by a store from the effective address `I` up (R63). -/
theorem Completes.mem_changed (h : Completes s i t) (hne : t.mem ≠ s.mem) :
    ∃ bs, t.mem = s.mem.writeBytes s.I.toNat bs := by
  cases h with
  | ldB x => exact ⟨_, rfl⟩
  | ldMemVx x => exact ⟨_, rfl⟩
  | _ => exact absurd rfl hne

end Completed

/-- Settles O21: an exception keeps every one of these fields (R172), and a completed instruction changes each only as
its own lemma says. -/
theorem specialRegistersChangeOnlyByTheirInstructions : Obligations.SpecialRegistersChangeOnlyByTheirInstructions := by
  intro i s t h
  rcases exec_eq_next h with ⟨e, rfl⟩ | hc
  · simp
  · exact ⟨hc.I_changed, hc.sp_changed, hc.stack_changed, hc.DT_changed, hc.ST_changed, hc.draws_changed, hc.key_eq,
      hc.div_eq⟩

/-! ### The display (R27, R28) -/

/-- `00E0` and `Dxyn`, the instructions that draw. -/
def Draws (i : Instr) : Prop := i = .cls ∨ ∃ x y n, i = .drw x y n

/-- A completed instruction is one of the two that draw and sets `redraw`, or leaves the display as it was. -/
theorem Completes.display {s t : State} {i : Instr} (h : Completes s i t) :
    (Draws i ∧ t.redraw = true) ∨ (¬Draws i ∧ t.fb = s.fb ∧ t.redraw = s.redraw) := by
  cases h with
  | cls => exact .inl ⟨.inl rfl, rfl⟩
  | drw x y n => exact .inl ⟨.inr ⟨x, y, n, rfl⟩, rfl⟩
  | _ => exact .inr ⟨by simp [Draws], rfl, rfl⟩

/-- Settles O20: an exception keeps the display (R172) and a completed instruction that does not draw keeps it too. -/
theorem displayChangesOnlyByClearAndDraw : Obligations.DisplayChangesOnlyByClearAndDraw := by
  intro i s t h
  rcases exec_eq_next h with ⟨e, rfl⟩ | hc
  · simp
  · rcases hc.display with ⟨hi, hred⟩ | ⟨hi, hfb, hred⟩
    · exact ⟨fun _ => hi, fun _ => ⟨hi, hred⟩, fun _ _ _ => hred⟩
    · exact ⟨fun h => absurd hfb h, fun h => absurd hred h, fun h => absurd h hi⟩

/-! ### The general registers (R21) -/

theorem State.eq_of_writeV_ne {s : State} {x r : Reg} {v : Byte} (h : (s.writeV x v).V[r] ≠ s.V[r]) : r = x := by
  by_contra hx
  exact h (by rw [State.writeV_get, if_neg hx])

theorem State.eq_of_setFlag_ne {s : State} {f : Bool} {r : Reg} (h : (s.setFlag f).V[r] ≠ s.V[r]) : r = 15 :=
  eq_of_writeV_ne h

theorem State.eq_of_writeFlagged_ne {s : State} {x r : Reg} {b : FlaggedByte}
    (h : (s.writeFlagged x b).V[r] ≠ s.V[r]) : r = x ∨ r = 15 := by
  by_contra hx
  obtain ⟨hrx, hr15⟩ := not_or.1 hx
  exact h (by rw [State.writeFlagged_get, if_neg hr15, if_neg hrx])

theorem State.le_of_loadFromI_ne {s : State} {x r : Reg} (h : (s.loadFromI x).V[r] ≠ s.V[r]) : r ≤ x := by
  by_contra hx
  exact h ((s.loadedV_get s.I.toNat x r).trans (if_neg hx))

/-- Settles O18: an exception keeps the registers (R172), and a completed instruction changes them by one of the four
register updates. -/
theorem registersChangeOnlyByTheirInstructions : Obligations.RegistersChangeOnlyByTheirInstructions := by
  intro i s t r h hne
  rcases exec_eq_next h with ⟨e, rfl⟩ | hc
  · exact absurd rfl hne
  · cases hc with
    | ldImm | addImm | ldReg | orReg | andReg | xorReg | ldVxDt | ldVxKPressed =>
      all_goals exact State.eq_of_writeV_ne hne
    | rnd => exact State.eq_of_writeV_ne (s := s.countDraw) hne
    | addReg | subReg | shr | subn | shl => all_goals exact State.eq_of_writeFlagged_ne hne
    | drw x y n => exact State.eq_of_setFlag_ne (s := s.paint (drwResult x y n s).1) hne
    | ldVxMem => exact State.le_of_loadFromI_ne hne
    | _ => exact absurd rfl hne

end Sys2Proof.Machine
end

section
/-! Memories in canonical form (the model's own choice, log 7). -/

namespace Sys2Proof.Machine.Memory

/-- At its own address a canonical memory's first cell reads otherwise than in a memory that lists only later ones. -/
theorem read_ne_of_listed {a : Nat} {v : Byte} {m m' : Memory} (hv : v ≠ background a)
    (hm' : wfFrom (a + 1) m' = true) : read ((a, v) :: m) a ≠ read m' a := by
  rw [read, if_pos rfl, read_of_lt hm' (Nat.lt_succ_self a)]
  exact hv

theorem read_tail_eq {a : Nat} {v w : Byte} {m m' : Memory} (hm : wfFrom (a + 1) m = true)
    (hm' : wfFrom (a + 1) m' = true) {c : Nat} (h : read ((a, v) :: m) c = read ((a, w) :: m') c) :
    read m c = read m' c := by
  by_cases hc : c = a
  · rw [read_of_lt hm (by omega), read_of_lt hm' (by omega)]
  · simpa [read, hc] using h

/-- Induction along both lists: the first cells have the same address, or the lower one is read apart. -/
theorem eq_of_read_eq : ∀ {m m' : Memory} {lo : Nat}, wfFrom lo m = true → wfFrom lo m' = true →
    (∀ a, a < Config.memSize → read m a = read m' a) → m = m'
  | [], [], _, _, _, _ => rfl
  | (a, v) :: m, [], _, hm, _, hread => by
    obtain ⟨-, ha, hv, -⟩ := wfFrom_cons.1 hm
    exact absurd (hread a ha) (read_ne_of_listed hv rfl)
  | [], (b, w) :: m', _, _, hm', hread => by
    obtain ⟨-, hb, hw, -⟩ := wfFrom_cons.1 hm'
    exact absurd (hread b hb).symm (read_ne_of_listed hw rfl)
  | (a, v) :: m, (b, w) :: m', _, hm, hm', hread => by
    obtain ⟨-, ha, hv, htail⟩ := wfFrom_cons.1 hm
    obtain ⟨-, hb, hw, htail'⟩ := wfFrom_cons.1 hm'
    rcases Nat.lt_trichotomy a b with hab | rfl | hba
    · have hlater : wfFrom (a + 1) ((b, w) :: m') = true := wfFrom_cons.2 ⟨hab, hb, hw, htail'⟩
      exact absurd (hread a ha) (read_ne_of_listed hv hlater)
    · have hvw : v = w := by simpa [read] using hread a ha
      have hmm' : m = m' := eq_of_read_eq htail htail' fun c hc => read_tail_eq htail htail' (hread c hc)
      rw [hvw, hmm']
    · have hlater : wfFrom (b + 1) ((a, v) :: m) = true := wfFrom_cons.2 ⟨hba, ha, hv, htail⟩
      exact absurd (hread b hb).symm (read_ne_of_listed hw hlater)

/-- Settles O23: the canonical form from address 0 up is that of `eq_of_read_eq`. -/
theorem memoriesThatReadAlikeAreEqual : Obligations.MemoriesThatReadAlikeAreEqual :=
  fun _ _ hm hm' hread => eq_of_read_eq hm hm' hread

end Sys2Proof.Machine.Memory
end

section
/-! Which exception a step raises (R171, R197): the conditions of `wordFault` over a word's digits against the checks of
the instruction that the word decodes to. -/

namespace Sys2Proof.Machine

/-! ### The check of an instruction -/

/-- The exception of an operand check, if it fails. -/
def checkFault : Except Exc Reg → Option Exc
  | .ok _ => none
  | .error e => some e

theorem checkFault_keyIndex (k : Byte) :
    checkFault (keyIndex k) = if k.toNat > 15 then some (.invalidKeyIndex k) else none := by
  split
  next h => rw [keyIndex_error h, checkFault]
  next h => rw [keyIndex_ok (by omega), checkFault]

theorem checkFault_fontDigit (d : Byte) :
    checkFault (fontDigit d) = if d.toNat > 15 then some (.invalidFontDigit d) else none := by
  split
  next h => rw [fontDigit_error h, checkFault]
  next h => rw [fontDigit_ok (by omega), checkFault]

/-- The exception that an instruction raises in the state `s` (R171): its own check, on its own operands. -/
def instrFault (s : State) : Instr → Option Exc
  | .sys nnn => some (.illegalInstruction (immAddr nnn))
  | .ret => if s.sp.val = 0 then some .stackUnderflow else none
  | .call _ => if s.sp.val = 16 then some .stackOverflow else none
  | .skp x | .sknp x => checkFault (keyIndex s.V[x])
  | .ldF x => checkFault (fontDigit s.V[x])
  | .drw _ _ n => outOfRange s.I.toNat n
  | .ldB _ => outOfRange s.I.toNat 3
  | .ldMemVx x | .ldVxMem x => outOfRange s.I.toNat (x.val + 1)
  | _ => none

/-- An instruction is its own check, and a completed state that keeps the status (R172). -/
theorem exec_eq_complete (i : Instr) (s : State) :
    ∃ done, exec i s = complete (instrFault s i) s done ∧ done.status = s.status := by
  cases i with
  | ret =>
    simp only [exec, execRet, instrFault]
    by_cases h : s.sp.val = 0
    · exact ⟨s, by simp [h], rfl⟩
    · have h' : 0 < s.sp.val := Nat.pos_of_ne_zero h
      exact ⟨s.pop.setPc (s.top h' + 2), by rw [if_neg h, dif_pos h', complete_none], rfl⟩
  | call nnn =>
    simp only [exec, execCall, instrFault]
    by_cases h : s.sp.val = 16
    · exact ⟨s, by simp [h], rfl⟩
    · have h' : s.sp.val < 16 := by omega
      exact ⟨(s.push h').setPc (immAddr nnn), by rw [if_neg h, dif_pos h', complete_none], rfl⟩
  | skp x =>
    simp only [exec, execSkp, instrFault, State.readV_eq]
    cases keyIndex s.V[x] <;> exact ⟨_, rfl, rfl⟩
  | sknp x =>
    simp only [exec, execSknp, instrFault, State.readV_eq]
    cases keyIndex s.V[x] <;> exact ⟨_, rfl, rfl⟩
  | ldF x =>
    simp only [exec, execLdF, instrFault, State.readV_eq]
    cases fontDigit s.V[x] <;> exact ⟨_, rfl, rfl⟩
  | ldVxK x =>
    simp only [exec, execLdVxK]
    cases s.leastPressed <;> exact ⟨_, rfl, rfl⟩
  | _ => exact ⟨_, rfl, rfl⟩

/-- An instruction faults exactly where its own check says, and otherwise keeps the status (R172). -/
theorem exec_status {i : Instr} {s t : State} (h : exec i s = .next t) :
    t.status = (instrFault s i).elim s.status .faulted := by
  obtain ⟨done, heq, hdone⟩ := exec_eq_complete i s
  rw [heq] at h
  rcases complete_eq_next h with ⟨e, he, rfl⟩ | ⟨hnone, rfl⟩
  · rw [he]
    rfl
  · rw [hnone]
    exact hdone

/-! ### The conditions over the digits, family by family (R75) -/

/-- The exception of the word `op`, given the decoder's answer: a word that decode rejects is illegal (R173). -/
def decodedFault (s : State) (op : Word) : Except DecodeReject Instr → Option Exc
  | .error _ => some (.illegalInstruction op)
  | .ok i => instrFault s i

theorem digitX_toNat (op : Word) : digitX op.toNat = fieldX op := Fin.ext (fieldX_val op).symm

/-- A word whose top digit is 0 is its own address immediate (R73). -/
theorem immAddr_fieldNNN {op : Word} (h : op.toNat / 4096 = 0) : immAddr (fieldNNN op) = op := by
  apply BitVec.eq_of_toNat_eq
  rw [immAddr_toNat, fieldNNN_toNat]
  omega

theorem wordFault_family0 {s : State} {op : Word} (h : op.toNat / 4096 = 0) :
    wordFault s op.toNat = decodedFault s op (.ok (decodeFamily0 op)) := by
  unfold decodeFamily0
  by_cases hcls : op = 0x00E0
  · subst op
    rfl
  · by_cases hret : op = 0x00EE
    · subst op
      simp [wordFault, isIllegalWord, decodedFault, instrFault]
    · have hcls' : op.toNat ≠ 0xE0 := fun h => hcls (BitVec.eq_of_toNat_eq h)
      have hret' : op.toNat ≠ 0xEE := fun h => hret (BitVec.eq_of_toNat_eq h)
      rw [if_neg hcls, if_neg hret]
      simp [wordFault, isIllegalWord, decodedFault, instrFault, h, hcls', hret', immAddr_fieldNNN h]

theorem wordFault_family2 {s : State} {op : Word} (h : op.toNat / 4096 = 2) :
    wordFault s op.toNat = decodedFault s op (.ok (.call (fieldNNN op))) := by
  have hret : op.toNat ≠ 0xEE := by omega
  simp [wordFault, isIllegalWord, decodedFault, instrFault, h, hret]

theorem wordFault_family59 {s : State} {op : Word} {i : Instr} (h : op.toNat / 4096 = 5 ∨ op.toNat / 4096 = 9)
    (hi : instrFault s i = none) : wordFault s op.toNat = decodedFault s op (decodeFamily59 false op i) := by
  have hret : op.toNat ≠ 0xEE := by omega
  have hn : fieldN op = 0 ↔ op.toNat % 16 = 0 := by
    rw [Fin.ext_iff, fieldN_val]
    rfl
  by_cases h0 : op.toNat % 16 = 0
  · rcases h with h | h <;> simp [wordFault, isIllegalWord, decodeFamily59, decodedFault, h, hn, h0, hi, hret]
  · rcases h with h | h <;> simp [wordFault, isIllegalWord, decodeFamily59, decodedFault, h, hn, h0]

theorem wordFault_family8 {s : State} {op : Word} (h : op.toNat / 4096 = 8) :
    wordFault s op.toNat = decodedFault s op (decodeFamily8 op) := by
  have hret : op.toNat ≠ 0xEE := by omega
  have hlt : op.toNat % 16 < 16 := Nat.mod_lt _ (by decide)
  rw [decodeFamily8, fieldN_val]
  interval_cases hn : op.toNat % 16 <;>
    simp [wordFault, isIllegalWord, decodedFault, instrFault, h, hn, hret]

theorem wordFault_familyD {s : State} {op : Word} (h : op.toNat / 4096 = 0xD) :
    wordFault s op.toNat = decodedFault s op (.ok (.drw (fieldX op) (fieldY op) (fieldN op))) := by
  have hret : op.toNat ≠ 0xEE := by omega
  simp [wordFault, isIllegalWord, decodedFault, instrFault, outOfRange, h, hret, fieldN_val]

theorem wordFault_familyE {s : State} {op : Word} (h : op.toNat / 4096 = 0xE) :
    wordFault s op.toNat = decodedFault s op (decodeFamilyE op) := by
  have hret : op.toNat ≠ 0xEE := by omega
  rw [decodeFamilyE, fieldKK_toNat]
  split <;> simp_all [wordFault, isIllegalWord, decodedFault, instrFault, digitX_toNat, checkFault_keyIndex]

theorem wordFault_familyF {s : State} {op : Word} (h : op.toNat / 4096 = 0xF) :
    wordFault s op.toNat = decodedFault s op (decodeFamilyF op) := by
  have hret : op.toNat ≠ 0xEE := by omega
  have hx := fieldX_val op
  rw [decodeFamilyF, fieldKK_toNat]
  split <;> simp_all [wordFault, isIllegalWord, decodedFault, instrFault, digitX_toNat, checkFault_fontDigit,
    outOfRange]

/-- In the other families every word decodes, to an instruction without a check. -/
theorem wordFault_unchecked {s : State} {op : Word} {i : Instr}
    (h : op.toNat / 4096 ∈ [0x1, 0x3, 0x4, 0x6, 0x7, 0xA, 0xB, 0xC]) (hi : instrFault s i = none) :
    wordFault s op.toNat = decodedFault s op (.ok i) := by
  simp only [List.mem_cons, List.not_mem_nil, or_false] at h
  have hret : op.toNat ≠ 0xEE := by omega
  rcases h with h | h | h | h | h | h | h | h <;> simp [wordFault, isIllegalWord, decodedFault, h, hi, hret]

/-- What the conditions over the digits say of a word is what its decoded instruction checks (R171, R173). -/
theorem wordFault_eq_decodedFault (s : State) (op : Word) :
    wordFault s op.toNat = decodedFault s op (decodeWord op) := by
  have hlt : op.toNat / 4096 < 16 := fieldT_val op ▸ (fieldT op).isLt
  rw [decodeWord, decodeWordWith, fieldT_val]
  interval_cases h : op.toNat / 4096
  · exact wordFault_family0 h
  · exact wordFault_unchecked (by simp [h]) rfl
  · exact wordFault_family2 h
  · exact wordFault_unchecked (by simp [h]) rfl
  · exact wordFault_unchecked (by simp [h]) rfl
  · exact wordFault_family59 (.inl h) rfl
  · exact wordFault_unchecked (by simp [h]) rfl
  · exact wordFault_unchecked (by simp [h]) rfl
  · exact wordFault_family8 h
  · exact wordFault_family59 (.inr h) rfl
  · exact wordFault_unchecked (by simp [h]) rfl
  · exact wordFault_unchecked (by simp [h]) rfl
  · exact wordFault_unchecked (by simp [h]) rfl
  · exact wordFault_familyD h
  · exact wordFault_familyE h
  · exact wordFault_familyF h

/-! ### The exception of a step -/

/-- The conditions are read on the fetched word. -/
theorem stepFault_eq_wordFault {s : State} (hpc : s.pc.toNat ≤ 0xFFE) :
    stepFault s = wordFault s (s.mem.readWord s.pc.toNat).toNat := by
  rw [stepFault, if_neg (by omega), Memory.readWord, Word.ofBytes_toNat]

/-- A step of a running block faults exactly where the conditions say, with the exception they say (R171, R186). -/
theorem step_status {s t : State} (h : step s = .next t) : t.status = (stepFault s).elim .running .faulted := by
  obtain ⟨hs, ⟨hpc, rfl⟩ | ⟨hpc, ⟨r, hr⟩, rfl⟩ | ⟨hpc, i, u, hi, hu, ht⟩⟩ := cycle_eq_next h
  · rw [stepFault, if_pos hpc]
    rfl
  · rw [stepFault_eq_wordFault hpc, wordFault_eq_decodedFault, hr]
    rfl
  · have hstatus : t.status = u.status := by
      rcases ht with ⟨-, rfl⟩ | ⟨-, rfl⟩
      · exact tick_status u
      · rfl
    rw [stepFault_eq_wordFault hpc, wordFault_eq_decodedFault, hi, hstatus, exec_status hu, hs]
    rfl

theorem step_faulted_iff {s t : State} (h : step s = .next t) (e : Exc) :
    t.status = .faulted e ↔ stepFault s = some e := by
  rw [step_status h]
  cases stepFault s <;> simp

/-- A step takes an exception and keeps everything else, or completes its instruction and ticks (R170, R172). -/
theorem step_eq_next {s u : State} (h : step s = .next u) :
    s.status = .running ∧ ((∃ e, u = s.raise e) ∨
      (s.pc.toNat ≤ 0xFFE ∧ ∃ i t, decodeWord (s.mem.readWord s.pc.toNat) = .ok i ∧ exec i s = .next t ∧
        Completes s i t ∧ u = tick t)) := by
  obtain ⟨hs, ⟨-, rfl⟩ | ⟨-, -, rfl⟩ | ⟨hpc, i, t, hi, ht, hu⟩⟩ := cycle_eq_next h
  · exact ⟨hs, .inl ⟨_, rfl⟩⟩
  · exact ⟨hs, .inl ⟨_, rfl⟩⟩
  · refine ⟨hs, ?_⟩
    rcases exec_eq_next ht with ⟨e, rfl⟩ | hc
    · rcases hu with ⟨hrun, -⟩ | ⟨-, rfl⟩
      · cases hrun
      · exact .inl ⟨e, rfl⟩
    · rcases hu with ⟨-, rfl⟩ | ⟨hstop, -⟩
      · exact .inr ⟨hpc, i, t, hi, ht, hc, rfl⟩
      · exact absurd (hc.status_eq.trans hs) hstop

end Sys2Proof.Machine
end

section
/-! The invariant of reachable states (R23, R24, R101, R108, R171; log 7). -/

namespace Sys2Proof.Machine

/-! ### The recorded exception -/

theorem wordFault_stepInfo {s : State} {op : Nat} {e : Exc} (hop : op < 0x10000) (h : wordFault s op = some e) :
    e.stepInfo := by
  have hI := s.I.isLt
  unfold wordFault at h
  split_ifs at h with hill hret hcall hkey hfont hdraw hbcd hreg <;> obtain rfl := Option.some.inj h
  · simpa [Exc.stepInfo, Nat.mod_eq_of_lt hop] using hill
  · trivial
  · trivial
  · exact hkey.2
  · exact hfont.2.2
  all_goals
    simp only [Exc.stepInfo]
    omega

theorem stepFault_stepInfo {s : State} {e : Exc} (h : stepFault s = some e) : e.stepInfo := by
  by_cases hpc : s.pc.toNat ≤ 0xFFE
  · rw [stepFault_eq_wordFault hpc] at h
    exact wordFault_stepInfo (s.mem.readWord s.pc.toNat).isLt h
  · rw [stepFault, if_pos (by omega)] at h
    obtain rfl := Option.some.inj h
    exact ⟨by omega, s.pc.isLt⟩

/-! ### Memory, stack and `pc` after a completed instruction -/

theorem Completes.mem_wf {s t : State} {i : Instr} (h : Completes s i t) (hm : s.mem.wf = true) :
    t.mem.wf = true := by
  by_cases hne : t.mem = s.mem
  · rwa [hne]
  · obtain ⟨bs, hbs⟩ := h.mem_changed hne
    rw [hbs]
    exact Memory.writeBytes_wf bs _ hm

/-- The stack entries in use are addresses that can be fetched from: the stack clause of `State.Inv`. -/
def State.StackFetchable (s : State) : Prop := ∀ k : Fin 16, k.val < s.sp.val → s.stack[k].toNat ≤ 0xFFE

theorem Completes.stackFetchable {s t : State} {i : Instr} (h : Completes s i t) (hpc : s.pc.toNat ≤ 0xFFE)
    (hs : s.StackFetchable) : t.StackFetchable := by
  cases h with
  | ret => exact fun k hk => hs k (hk.trans_le (Nat.sub_le _ _))
  | call nnn hsp =>
    intro k hk
    have hk' : k.val < s.sp.val + 1 := hk
    have hget := s.push_stack_get hsp k
    by_cases hkeq : k.val = s.sp.val
    · exact (congrArg BitVec.toNat (hget.trans (if_pos hkeq))).trans_le hpc
    · exact (congrArg BitVec.toNat (hget.trans (if_neg hkeq))).trans_le (hs k (by omega))
  | _ => exact hs

theorem Word_add_two_le {w : Word} (h : w.toNat ≤ 0xFFE) : (w + 2).toNat ≤ 0x10FE := by bv_omega

theorem Word_add_four_le {w : Word} (h : w.toNat ≤ 0xFFE) : (w + 4).toNat ≤ 0x10FE := by bv_omega

theorem State.skipIf_pc_le {s : State} (c : Bool) (h : s.pc.toNat ≤ 0xFFE) : (s.skipIf c).pc.toNat ≤ 0x10FE := by
  cases c
  · exact Word_add_two_le h
  · exact Word_add_four_le h

/-- The bound is reached by `Bnnn` alone: `0xFFF + 0xFF` (R108). -/
theorem immAddr_add_byteAsWord_le (nnn : BitVec 12) (b : Byte) : (immAddr nnn + byteAsWord b).toNat ≤ 0x10FE := by
  have hnnn := nnn.isLt
  have hb := b.isLt
  rw [BitVec.toNat_add, immAddr_toNat, byteAsWord_toNat]
  omega

theorem Completes.pc_le {s t : State} {i : Instr} (h : Completes s i t) (hpc : s.pc.toNat ≤ 0xFFE)
    (hs : s.StackFetchable) : t.pc.toNat ≤ 0x10FE := by
  cases h with
  | ret h0 => exact Word_add_two_le (hs ⟨s.sp.val - 1, by omega⟩ (Nat.sub_one_lt h0.ne'))
  | jp nnn | call nnn => all_goals exact (immAddr_toNat nnn).trans_le (nnn.isLt.le.trans (by decide))
  | jpV0 nnn => exact immAddr_add_byteAsWord_le nnn _
  | seImm | sneImm | seReg | sneReg | skp | sknp => all_goals exact State.skipIf_pc_le _ hpc
  | ldVxKBlocked => exact hpc.trans (by decide)
  | _ => exact Word_add_two_le hpc

/-! ### The obligations -/

/-- Settles O12: no stack entry is in use and no exception is recorded at reset. -/
theorem resetMeetsTheInvariant : Obligations.ResetMeetsTheInvariant where
  memory := Memory.reset_wf
  stack := fun _ hk => absurd hk (Nat.not_lt_zero _)
  pc := by decide
  status := fun _ he => by cases he

/-- Settles O13: an exception keeps memory, stack and `pc` and is one of `stepFault`'s; a completed instruction was
fetched from `pc ≤ 0xFFE`, and the tick after it touches none of them. -/
theorem stepKeepsTheInvariant : Obligations.StepKeepsTheInvariant := by
  intro s u hinv h
  obtain ⟨hmem, hstack, hpc, -⟩ := hinv
  have hstatus : ∀ e, u.status = .faulted e → e.stepInfo :=
    fun e he => stepFault_stepInfo ((step_faulted_iff h e).1 he)
  obtain ⟨-, ⟨e, rfl⟩ | ⟨hfetch, i, t, -, -, hc, rfl⟩⟩ := step_eq_next h
  · exact ⟨hmem, hstack, hpc, hstatus⟩
  · have hstack' : (tick t).StackFetchable := by
      simpa only [State.StackFetchable, tick_sp, tick_stack] using hc.stackFetchable hfetch hstack
    exact ⟨by rw [tick_mem]; exact hc.mem_wf hmem, hstack', by rw [tick_pc]; exact hc.pc_le hfetch hstack, hstatus⟩

end Sys2Proof.Machine
end

section
/-! The host's inputs and outputs (R34, R61, R181, R187). -/

namespace Sys2Proof.Machine

theorem State.soundActive_iff (s : State) : s.soundActive = true ↔ s.ST.toNat ≠ 0 := by
  simp [State.soundActive, ← BitVec.toNat_inj]

/-- `SetKey` in a running block sets its key and touches nothing else (R34). -/
theorem Block.act_setKey_running {s : State} (hs : s.status = .running) (k : Reg) (b : Bool) :
    Block.act (some s) (.setKey k b) = some (s.latchKey k b) :=
  congrArg some (State.setKey_running hs k b)

theorem Block.act_ackRedraw_running {s : State} (hs : s.status = .running) :
    Block.act (some s) .ackRedraw = some s.clearRedraw :=
  congrArg some (State.ackRedraw_running hs)

theorem Block.act_step_next {s t : State} (h : step s = .next t) : Block.act (some s) .step = some t :=
  congrArg some (State.stepped_next h)

/-- No instruction and no tick touches the keypad latch (R26). -/
theorem step_key {s t : State} (h : step s = .next t) : t.key = s.key := by
  obtain ⟨-, ⟨e, rfl⟩ | ⟨-, i, u, -, -, hc, rfl⟩⟩ := step_eq_next h
  · rfl
  · exact (tick_key u).trans hc.key_eq

/-- A step sets `redraw` or leaves it (R28, decision D26). -/
theorem step_redraw {s t : State} (h : step s = .next t) (hs : s.redraw = true) : t.redraw = true := by
  obtain ⟨-, ⟨e, rfl⟩ | ⟨-, i, u, -, -, hc, rfl⟩⟩ := step_eq_next h
  · exact hs
  · rw [tick_redraw]
    rcases hc.display with ⟨-, hred⟩ | ⟨-, -, hred⟩
    · exact hred
    · exact hred.trans hs

/-- The pulse of a step is its tick's: a fault gives none (R181, R184). -/
theorem step_stExpired {s t : State} (h : step s = .next t) :
    t.stExpired = true ↔ ∃ i u, s.pc.toNat ≤ 0xFFE ∧ decodeWord (s.mem.readWord s.pc.toNat) = .ok i ∧
      exec i s = .next u ∧ u.status = .running ∧ u.div.val = 9 ∧ u.ST.toNat = 1 := by
  have hST (u : State) : u.ST = 1 ↔ u.ST.toNat = 1 := BitVec.toNat_inj.symm
  constructor
  · intro hexp
    obtain ⟨hs, ⟨e, rfl⟩ | ⟨hpc, i, u, hi, hu, hc, rfl⟩⟩ := step_eq_next h
    · cases hexp
    · obtain ⟨hdiv, hone⟩ := (tick_stExpired u).1 hexp
      exact ⟨i, u, hpc, hi, hu, hc.status_eq.trans hs, hdiv, (hST u).1 hone⟩
  · rintro ⟨i, u, hpc, hi, hu, hrun, hdiv, hone⟩
    obtain ⟨hs, -⟩ := step_eq_next h
    have hstep : step s = .next (tick u) := by
      rw [step, cycle_exec hs hpc hi, hu, finish_running hrun]
    obtain rfl := Host.Outcome.next.inj (hstep.symm.trans h)
    exact (tick_stExpired u).2 ⟨hdiv, (hST u).2 hone⟩

/-- Settles O54: the outputs are fields of the state, the two inputs are `latchKey` and `clearRedraw`, and a step's
effect on the outputs is that of the lemmas above. -/
theorem hostInputsAndOutputs : Obligations.HostInputsAndOutputs := by
  intro s k j b
  refine ⟨⟨fun _ _ => rfl, rfl, s.soundActive_iff, rfl⟩, fun hs => ⟨?_, ?_, ?_⟩⟩
  · exact ⟨_, Block.act_setKey_running hs k b, s.latchKey_readKey k j b, rfl⟩
  · exact Block.act_ackRedraw_running hs
  · intro t h
    exact ⟨Block.act_step_next h, step_key h, step_redraw h, step_faulted_iff h, step_stExpired h⟩

end Sys2Proof.Machine
end

section
/-! Stores at the effective address (R50, R56, R58, R60, R163, R164): which bytes they change, and the fetch after
them. -/

namespace Sys2Proof.Machine

open Sys2Proof.Claims

/-! ### The bytes a store changes -/

/-- A byte that reads otherwise after a store is one of the bytes stored. -/
theorem Memory.stored_of_read_ne {m : Memory} {base a : Nat} {bs : List Byte} (hm : m.wf = true)
    (hlen : base + bs.length ≤ 4096) (hne : (m.writeBytes base bs).read a ≠ m.read a) :
    base ≤ a ∧ a < base + bs.length := by
  by_contra hout
  exact hne (read_writeBytes_outside hm hlen (by omega))

/-- `V[0] .. V[x]`, the bytes that `Fx55` stores (R164). -/
theorem length_take_V (s : State) (x : Reg) : (s.V.toList.take (x.val + 1)).length = x.val + 1 := by
  rw [List.length_take, Vector.length_toList]
  omega

/-- Settles O19: an exception keeps memory (R172), and a completed instruction that is not one of the two stores keeps
it too. -/
theorem memoryChangesOnlyByBcdAndDump : Obligations.MemoryChangesOnlyByBcdAndDump := by
  intro i s t a hm h hne
  rcases exec_eq_next h with ⟨e, rfl⟩ | hc
  · exact absurd rfl hne
  · cases hc with
    | ldB x hrange =>
      have hlen : s.I.toNat + (bcdDigits (s.readV x)).length ≤ 4096 := by
        simpa using outOfRange_eq_none.1 hrange
      obtain ⟨hlo, hhi⟩ := Memory.stored_of_read_ne hm hlen hne
      rw [bcdDigits_length] at hhi
      exact .inl ⟨x, rfl, hlo, by omega⟩
    | ldMemVx x hrange =>
      have hlen : s.I.toNat + (s.V.toList.take (x.val + 1)).length ≤ 4096 := by
        rw [length_take_V]
        simpa using outOfRange_eq_none.1 hrange
      obtain ⟨hlo, hhi⟩ := Memory.stored_of_read_ne hm hlen hne
      rw [length_take_V] at hhi
      exact .inr ⟨x, rfl, hlo, by omega⟩
    | _ => exact absurd rfl hne

/-! ### `Fx33` and `Fx55` where they complete -/

section Stores

variable {s : State} {x : Reg}

theorem exec_ldB_inRange (h : s.I.toNat + 2 ≤ 0xFFF) :
    exec (.ldB x) s = .next (s.storeAtI (bcdDigits (s.readV x))).advance :=
  congrArg (complete · s _) (outOfRange_eq_none.2 (.inr (by omega)))

theorem exec_ldMemVx_inRange (h : s.I.toNat + x.val ≤ 0xFFF) :
    exec (.ldMemVx x) s = .next (s.storeAtI (s.V.toList.take (x.val + 1))).advance :=
  congrArg (complete · s _) (outOfRange_eq_none.2 (.inr (by omega)))

theorem read_storeAtI_bcdDigits (hm : s.mem.wf = true) (h : s.I.toNat + 2 ≤ 0xFFF) (a : Nat) :
    (s.storeAtI (bcdDigits (s.readV x))).mem.read a = byteAfterBcd s x a := by
  have hlen : s.I.toNat + (bcdDigits (s.readV x)).length ≤ 4096 := by
    rw [bcdDigits_length]
    omega
  have inside (k : Nat) (hk : k < (bcdDigits (s.readV x)).length) := Memory.read_writeBytes_inside hm hlen hk
  rw [State.storeAtI_mem, byteAfterBcd]
  split_ifs with h0 h1 h2
  · subst h0
    exact inside 0 (by simp)
  · subst h1
    exact inside 1 (by simp)
  · subst h2
    exact inside 2 (by simp)
  · refine Memory.read_writeBytes_outside hm hlen ?_
    rw [bcdDigits_length]
    omega

theorem read_storeAtI_take_V (hm : s.mem.wf = true) (h : s.I.toNat + x.val ≤ 0xFFF) (a : Nat) :
    (s.storeAtI (s.V.toList.take (x.val + 1))).mem.read a = byteAfterDump s x a := by
  have hlen : s.I.toNat + (s.V.toList.take (x.val + 1)).length ≤ 4096 := by
    rw [length_take_V]
    omega
  rw [State.storeAtI_mem, Memory.read_writeBytes _ _ hm hlen, byteAfterDump]
  by_cases ha : s.I.toNat ≤ a ∧ a ≤ s.I.toNat + x.val
  · rw [dif_pos (by rw [length_take_V]; omega), dif_pos ha]
    simp
  · rw [dif_neg (by rw [length_take_V]; omega), dif_neg ha]

/-! ### The step after a store -/

/-- What the next step does with the word it fetches (R170, R173). -/
theorem step_of_fetched {op : Word} (hs : s.status = .running) (hpc : s.pc.toNat ≤ 0xFFE)
    (hop : s.mem.readWord s.pc.toNat = op) :
    (∀ i, decodeWord op = .ok i → step s = finish (exec i s)) ∧
    (∀ r, decodeWord op = .error r →
      step s = .next { s with status := .faulted (.illegalInstruction op), stExpired := false }) := by
  subst hop
  exact ⟨fun _ hi => cycle_exec hs hpc hi, fun _ hr => cycle_reject hs hpc hr⟩

/-- An instruction that leaves the block running is followed by the tick (R170, R181). -/
theorem step_of_exec {u : State} {i : Instr} (hs : s.status = .running) (hpc : s.pc.toNat ≤ 0xFFE)
    (hi : decodeWord (s.mem.readWord s.pc.toNat) = .ok i) (hex : exec i s = .next u) (hu : u.status = .running) :
    step s = .next (tick u) := by
  rw [step, cycle_exec hs hpc hi, hex, finish_running hu]

/-- A step that completes a store leaves a running block at the next instruction, with the bytes stored. -/
theorem step_storeAtI {t : State} {i : Instr} {bs : List Byte} (hs : s.status = .running)
    (hpc : s.pc.toNat ≤ 0xFFE) (hi : decodeWord (s.mem.readWord s.pc.toNat) = .ok i)
    (hex : exec i s = .next (s.storeAtI bs).advance) (h : step s = .next t) :
    t.status = .running ∧ t.pc.toNat = s.pc.toNat + 2 ∧ t.mem = (s.storeAtI bs).mem := by
  have hstep : step s = .next (tick (s.storeAtI bs).advance) := step_of_exec hs hpc hi hex hs
  obtain rfl := Host.Outcome.next.inj (hstep.symm.trans h)
  have hpc' : (tick (s.storeAtI bs).advance).pc = s.pc + 2 := tick_pc _
  refine ⟨(tick_status _).trans hs, ?_, tick_mem _⟩
  rw [hpc']
  bv_omega

end Stores

/-- Settles O48: the store leaves a running block whose `pc` is the address after the storing instruction, so the next
fetch reads the two bytes there, as the store left them. -/
theorem storedBytesAreFetchedByTheNextStep : Obligations.StoredBytesAreFetchedByTheNextStep := by
  intro x s t op hs hm hpc h hop
  rcases hop with ⟨hi, hrange, rfl⟩ | ⟨hi, hrange, rfl⟩
  · obtain ⟨ht, hpc', hmem⟩ := step_storeAtI hs (by omega) hi (exec_ldMemVx_inRange hrange) h
    refine step_of_fetched ht (by omega) ?_
    rw [hpc', hmem, Memory.readWord, read_storeAtI_take_V hm hrange, read_storeAtI_take_V hm hrange, Word.ofBytes]
  · obtain ⟨ht, hpc', hmem⟩ := step_storeAtI hs (by omega) hi (exec_ldB_inRange hrange) h
    refine step_of_fetched ht (by omega) ?_
    rw [hpc', hmem, Memory.readWord, read_storeAtI_bcdDigits hm hrange, read_storeAtI_bcdDigits hm hrange, Word.ofBytes]

end Sys2Proof.Machine
end

section
/-! Decode against encode (R74, R75, R79, R83): the fields of a packed word, and a word packed again from its fields. -/

namespace Sys2Proof

/-! ### The fields of a packed word (R71, R72) -/

@[simp] theorem fieldT_packNNN (t : BitVec 4) (nnn : BitVec 12) : fieldT (packNNN t nnn) = t.toFin := by
  apply Fin.ext
  rw [fieldT_val, packNNN_toNat, BitVec.val_toFin t]
  omega

@[simp] theorem fieldNNN_packNNN (t : BitVec 4) (nnn : BitVec 12) : fieldNNN (packNNN t nnn) = nnn := by
  apply BitVec.eq_of_toNat_eq
  rw [fieldNNN_toNat, packNNN_toNat]
  omega

@[simp] theorem fieldT_packXKK (t : BitVec 4) (x : Reg) (kk : Byte) : fieldT (packXKK t x kk) = t.toFin := by
  apply Fin.ext
  rw [fieldT_val, packXKK_toNat, BitVec.val_toFin t]
  omega

@[simp] theorem fieldX_packXKK (t : BitVec 4) (x : Reg) (kk : Byte) : fieldX (packXKK t x kk) = x := by
  apply Fin.ext
  rw [fieldX_val, packXKK_toNat]
  omega

@[simp] theorem fieldKK_packXKK (t : BitVec 4) (x : Reg) (kk : Byte) : fieldKK (packXKK t x kk) = kk := by
  apply BitVec.eq_of_toNat_eq
  rw [fieldKK_toNat, packXKK_toNat]
  omega

@[simp] theorem fieldT_packXYN (t : BitVec 4) (x y : Reg) (n : Fin 16) : fieldT (packXYN t x y n) = t.toFin := by
  apply Fin.ext
  rw [fieldT_val, packXYN_toNat, BitVec.val_toFin t]
  omega

@[simp] theorem fieldX_packXYN (t : BitVec 4) (x y : Reg) (n : Fin 16) : fieldX (packXYN t x y n) = x := by
  apply Fin.ext
  rw [fieldX_val, packXYN_toNat]
  omega

@[simp] theorem fieldY_packXYN (t : BitVec 4) (x y : Reg) (n : Fin 16) : fieldY (packXYN t x y n) = y := by
  apply Fin.ext
  rw [fieldY_val, packXYN_toNat]
  omega

@[simp] theorem fieldN_packXYN (t : BitVec 4) (x y : Reg) (n : Fin 16) : fieldN (packXYN t x y n) = n := by
  apply Fin.ext
  rw [fieldN_val, packXYN_toNat]
  omega

/-! ### A word packed again from its fields (R79) -/

theorem packNNN_fields {op : Word} {t : BitVec 4} (ht : op.toNat / 4096 = t.toNat) :
    packNNN t (fieldNNN op) = op := by
  apply BitVec.eq_of_toNat_eq
  rw [packNNN_toNat, fieldNNN_toNat]
  omega

theorem packXKK_fields {op : Word} {t : BitVec 4} {kk : Byte} (ht : op.toNat / 4096 = t.toNat)
    (hkk : (fieldKK op).toNat = kk.toNat) : packXKK t (fieldX op) kk = op := by
  rw [fieldKK_toNat] at hkk
  apply BitVec.eq_of_toNat_eq
  rw [packXKK_toNat, fieldX_val]
  omega

theorem packXYN_fields {op : Word} {t : BitVec 4} {n : Fin 16} (ht : op.toNat / 4096 = t.toNat)
    (hn : (fieldN op).val = n.val) : packXYN t (fieldX op) (fieldY op) n = op := by
  rw [fieldN_val] at hn
  apply BitVec.eq_of_toNat_eq
  rw [packXYN_toNat, fieldX_val, fieldY_val]
  omega

/-! ### Decode of encode -/

/-- A well-formed `SYS` is not taken for one of the two words that family `0` tests first (R76). -/
theorem decodeFamily0_packNNN {nnn : BitVec 12} (h : (Instr.sys nnn).wellFormed = true) :
    decodeFamily0 (packNNN 0#4 nnn) = .sys nnn := by
  obtain ⟨hcls, hret⟩ : nnn ≠ 0x0E0 ∧ nnn ≠ 0x0EE := by simpa [Instr.wellFormed] using h
  have hcls' : packNNN 0#4 nnn ≠ 0x00E0 := fun heq =>
    hcls ((fieldNNN_packNNN 0 nnn).symm.trans (congrArg fieldNNN heq))
  have hret' : packNNN 0#4 nnn ≠ 0x00EE := fun heq =>
    hret ((fieldNNN_packNNN 0 nnn).symm.trans (congrArg fieldNNN heq))
  rw [decodeFamily0, if_neg hcls', if_neg hret', fieldNNN_packNNN]

/-- The fields of the packed word select the instruction's own arm, family by family. -/
theorem decodeWord_encode {i : Instr} (h : i.wellFormed = true) : decodeWord (encode i) = .ok i := by
  cases i with
  | cls | ret => rfl
  | sys => simp [encode, decodeWord, decodeWordWith, decodeFamily0_packNNN h]
  | jp | call | ldI | jpV0 | seImm | sneImm | ldImm | addImm | rnd | drw =>
    simp [encode, decodeWord, decodeWordWith]
  | seReg | sneReg => simp [encode, decodeWord, decodeWordWith, decodeFamily59]
  | ldReg | orReg | andReg | xorReg | addReg | subReg | shr | subn | shl =>
    simp [encode, decodeWord, decodeWordWith, decodeFamily8]
  | skp | sknp => simp [encode, decodeWord, decodeWordWith, decodeFamilyE]
  | ldVxDt | ldVxK | ldDtVx | ldStVx | addI | ldF | ldB | ldMemVx | ldVxMem =>
    simp [encode, decodeWord, decodeWordWith, decodeFamilyF]

/-- Settles O1: the two bytes of an encoded instruction are read back as its word, and the word decodes to it. -/
theorem decodeOfEncodeIsIdentity : Obligations.DecodeOfEncodeIsIdentity := by
  intro i rest h
  refine ⟨decodeWord_encode h, ?_⟩
  rw [decodeBytes_encodeBytes, decodeWord_encode h]
  rfl

/-! ### Encode of decode -/

/-- `i` is well-formed and `op` is its word. -/
def EncodesTo (i : Instr) (op : Word) : Prop := encode i = op ∧ i.wellFormed = true

theorem encodesTo_of_ok {op : Word} {i j : Instr} (h : (.ok i : Except DecodeReject Instr) = .ok j)
    (hi : EncodesTo i op) : EncodesTo j op :=
  Except.ok.inj h ▸ hi

theorem decodeFamily0_encodesTo {op : Word} (ht : op.toNat / 4096 = 0) : EncodesTo (decodeFamily0 op) op := by
  unfold decodeFamily0
  by_cases hcls : op = 0x00E0
  · rw [if_pos hcls, hcls]
    exact ⟨rfl, rfl⟩
  by_cases hret : op = 0x00EE
  · rw [if_neg hcls, if_pos hret, hret]
    exact ⟨rfl, rfl⟩
  have hop : packNNN 0 (fieldNNN op) = op := packNNN_fields ht
  have hnnn : fieldNNN op ≠ 0x0E0 ∧ fieldNNN op ≠ 0x0EE :=
    ⟨fun h => hcls (by rw [← hop, h]; rfl), fun h => hret (by rw [← hop, h]; rfl)⟩
  rw [if_neg hcls, if_neg hret]
  exact ⟨hop, by simpa [Instr.wellFormed] using hnnn⟩

theorem decodeFamily59_zero {lax : Bool} {op : Word} {i : Instr} (h : fieldN op = 0) :
    decodeFamily59 lax op i = .ok i := by
  simp [decodeFamily59, h]

theorem decodeFamily59_strict {op : Word} {i : Instr} (h : fieldN op ≠ 0) :
    decodeFamily59 false op i = .error (.illegalInstruction op) := by
  simp [decodeFamily59, h]

theorem decodeFamily59_lax (op : Word) (i : Instr) : decodeFamily59 true op i = .ok i := rfl

theorem decodeFamily59_encodesTo {op : Word} {i j : Instr} (h : decodeFamily59 false op i = .ok j)
    (hi : fieldN op = 0 → EncodesTo i op) : EncodesTo j op := by
  by_cases hn : fieldN op = 0
  · exact encodesTo_of_ok ((decodeFamily59_zero hn).symm.trans h) (hi hn)
  · rw [decodeFamily59_strict hn] at h
    cases h

theorem decodeFamily8_encodesTo {op : Word} {i : Instr} (ht : op.toNat / 4096 = 8)
    (h : decodeFamily8 op = .ok i) : EncodesTo i op := by
  unfold decodeFamily8 at h
  split at h
  case h_10 => cases h
  all_goals
    next hn =>
      cases h
      exact ⟨packXYN_fields ht hn, rfl⟩

theorem decodeFamilyE_encodesTo {op : Word} {i : Instr} (ht : op.toNat / 4096 = 0xE)
    (h : decodeFamilyE op = .ok i) : EncodesTo i op := by
  unfold decodeFamilyE at h
  split at h
  case h_3 => cases h
  all_goals
    next hkk =>
      cases h
      exact ⟨packXKK_fields ht hkk, rfl⟩

theorem decodeFamilyF_encodesTo {op : Word} {i : Instr} (ht : op.toNat / 4096 = 0xF)
    (h : decodeFamilyF op = .ok i) : EncodesTo i op := by
  unfold decodeFamilyF at h
  split at h
  case h_10 => cases h
  all_goals
    next hkk =>
      cases h
      exact ⟨packXKK_fields ht hkk, rfl⟩

/-- A word that decodes is packed again from its fields, family by family (R79). -/
theorem encodesTo_of_decodeWord {op : Word} {i : Instr} (h : decodeWord op = .ok i) : EncodesTo i op := by
  have hlt : op.toNat / 4096 < 16 := fieldT_val op ▸ (fieldT op).isLt
  rw [decodeWord, decodeWordWith, fieldT_val] at h
  interval_cases ht : op.toNat / 4096
  · exact encodesTo_of_ok h (decodeFamily0_encodesTo ht)
  · exact encodesTo_of_ok h ⟨packNNN_fields ht, rfl⟩
  · exact encodesTo_of_ok h ⟨packNNN_fields ht, rfl⟩
  · exact encodesTo_of_ok h ⟨packXKK_fields ht rfl, rfl⟩
  · exact encodesTo_of_ok h ⟨packXKK_fields ht rfl, rfl⟩
  · exact decodeFamily59_encodesTo h fun hn => ⟨packXYN_fields ht (congrArg Fin.val hn), rfl⟩
  · exact encodesTo_of_ok h ⟨packXKK_fields ht rfl, rfl⟩
  · exact encodesTo_of_ok h ⟨packXKK_fields ht rfl, rfl⟩
  · exact decodeFamily8_encodesTo ht h
  · exact decodeFamily59_encodesTo h fun hn => ⟨packXYN_fields ht (congrArg Fin.val hn), rfl⟩
  · exact encodesTo_of_ok h ⟨packNNN_fields ht, rfl⟩
  · exact encodesTo_of_ok h ⟨packNNN_fields ht, rfl⟩
  · exact encodesTo_of_ok h ⟨packXKK_fields ht rfl, rfl⟩
  · exact encodesTo_of_ok h ⟨packXYN_fields ht rfl, rfl⟩
  · exact decodeFamilyE_encodesTo ht h
  · exact decodeFamilyF_encodesTo ht h

/-- Settles O2: the word that the instruction encodes to is the decoded one. -/
theorem encodeOfDecodeIsTheWord : Obligations.EncodeOfDecodeIsTheWord :=
  fun _ _ h => encodesTo_of_decodeWord h

/-- Settles O4: each word's digits evaluate to those of its pattern in R74. -/
theorem wordsOfTheSpecDecodeAsWritten : Obligations.WordsOfTheSpecDecodeAsWritten := by
  unfold Obligations.WordsOfTheSpecDecodeAsWritten
  decide

end Sys2Proof
end

section
/-! The low nibble of families `5` and `9`, for both values of `DECODE_LAX_5_9` (R77, decision D4). -/

namespace Sys2Proof

theorem fieldN_eq_zero_iff {op : Word} : fieldN op = 0 ↔ op.toNat % 16 = 0 := by
  rw [Fin.ext_iff, fieldN_val]
  rfl

theorem decodeWordWith_family5 {op : Word} (lax : Bool) (h : op.toNat / 4096 = 5) :
    decodeWordWith lax op = decodeFamily59 lax op (.seReg (fieldX op) (fieldY op)) := by
  simp only [decodeWordWith, fieldT_val, h]

theorem decodeWordWith_family9 {op : Word} (lax : Bool) (h : op.toNat / 4096 = 9) :
    decodeWordWith lax op = decodeFamily59 lax op (.sneReg (fieldX op) (fieldY op)) := by
  simp only [decodeWordWith, fieldT_val, h]

theorem decodeWordWith_other {op : Word} (lax lax' : Bool) (h5 : op.toNat / 4096 ≠ 5) (h9 : op.toNat / 4096 ≠ 9) :
    decodeWordWith lax op = decodeWordWith lax' op := by
  rw [decodeWordWith, decodeWordWith, fieldT_val]
  split
  case h_6 h => exact absurd h h5
  case h_10 h => exact absurd h h9
  all_goals rfl

theorem decodeWordWith_zero {op : Word} (lax lax' : Bool) (h : op.toNat % 16 = 0) :
    decodeWordWith lax op = decodeWordWith lax' op := by
  have hn : fieldN op = 0 := fieldN_eq_zero_iff.2 h
  by_cases h5 : op.toNat / 4096 = 5
  · rw [decodeWordWith_family5 _ h5, decodeWordWith_family5 _ h5, decodeFamily59_zero hn, decodeFamily59_zero hn]
  by_cases h9 : op.toNat / 4096 = 9
  · rw [decodeWordWith_family9 _ h9, decodeWordWith_family9 _ h9, decodeFamily59_zero hn, decodeFamily59_zero hn]
  exact decodeWordWith_other _ _ h5 h9

/-- Settles O5: only families `5` and `9` read the parameter, and they read it only where the low nibble is not 0. -/
theorem lowNibbleOfFamilies5And9 : Obligations.LowNibbleOfFamilies5And9 := by
  intro op
  have hx : fieldX op = ⟨op.toNat / 256 % 16, by omega⟩ := Fin.ext (fieldX_val op)
  have hy : fieldY op = ⟨op.toNat / 16 % 16, by omega⟩ := Fin.ext (fieldY_val op)
  rw [← hx, ← hy]
  refine ⟨fun h5 hn => ?_, fun h9 hn => ?_, fun h5 => ?_, fun h9 => ?_, decodeWordWith_other _ _,
    decodeWordWith_zero _ _⟩
  · exact (decodeWordWith_family5 _ h5).trans (decodeFamily59_strict (mt fieldN_eq_zero_iff.1 hn))
  · exact (decodeWordWith_family9 _ h9).trans (decodeFamily59_strict (mt fieldN_eq_zero_iff.1 hn))
  · exact (decodeWordWith_family5 _ h5).trans (decodeFamily59_lax _ _)
  · exact (decodeWordWith_family9 _ h9).trans (decodeFamily59_lax _ _)

end Sys2Proof
end

section
/-! Decode against the opcode table (R74): the rows that a word selects are those of its own family, and of these the
first is the decoded instruction's. -/

namespace Sys2Proof

/-! ### The rows that a word selects -/

/-- A mask of ones at the top digit and the `k` low bits selects by those digits of the word. -/
theorem OpcodeRow.selects_iff {r : OpcodeRow} {op : Word} {k : Nat} (hk : k ≤ 12)
    (hm : r.mask.toNat = 15 * 2 ^ 12 + (2 ^ k - 1)) :
    r.selects op = true ↔ op.toNat / 4096 = r.bits.toNat / 4096 ∧ op.toNat % 2 ^ k = r.bits.toNat % 4096 := by
  have hlow : 2 ^ k - 1 < 2 ^ 12 := Nat.sub_one_lt_of_le (Nat.two_pow_pos k) (Nat.pow_le_pow_right (by decide) hk)
  have hdiv : (op &&& r.mask).toNat / 2 ^ 12 = op.toNat / 4096 := by
    rw [BitVec.toNat_and, Nat.and_div_two_pow, show r.mask.toNat / 2 ^ 12 = 2 ^ 4 - 1 by omega,
      Nat.and_two_pow_sub_one_eq_mod]
    omega
  have hmod : (op &&& r.mask).toNat % 2 ^ 12 = op.toNat % 2 ^ k := by
    rw [BitVec.toNat_and, Nat.and_mod_two_pow, show r.mask.toNat % 2 ^ 12 = 2 ^ k - 1 by omega,
      Nat.and_two_pow_sub_one_eq_mod, Nat.mod_mod_of_dvd _ (Nat.pow_dvd_pow 2 hk)]
  rw [selects, beq_iff_eq, ← BitVec.toNat_inj]
  omega

theorem selects_F000 (op : Word) (number : Nat) (bits : Word) :
    OpcodeRow.selects ⟨number, bits, 0xF000#16⟩ op = true ↔
      op.toNat / 4096 = bits.toNat / 4096 ∧ 0 = bits.toNat % 4096 := by
  rw [OpcodeRow.selects_iff (k := 0) (by decide) rfl, pow_zero, Nat.mod_one]

theorem selects_F00F (op : Word) (number : Nat) (bits : Word) :
    OpcodeRow.selects ⟨number, bits, 0xF00F#16⟩ op = true ↔
      op.toNat / 4096 = bits.toNat / 4096 ∧ op.toNat % 16 = bits.toNat % 4096 :=
  OpcodeRow.selects_iff (k := 4) (by decide) rfl

theorem selects_F0FF (op : Word) (number : Nat) (bits : Word) :
    OpcodeRow.selects ⟨number, bits, 0xF0FF#16⟩ op = true ↔
      op.toNat / 4096 = bits.toNat / 4096 ∧ op.toNat % 256 = bits.toNat % 4096 :=
  OpcodeRow.selects_iff (k := 8) (by decide) rfl

theorem selects_FFFF (op : Word) (number : Nat) (bits : Word) :
    OpcodeRow.selects ⟨number, bits, 0xFFFF#16⟩ op = true ↔ op = bits := by
  rw [OpcodeRow.selects, beq_iff_eq]
  exact BitVec.and_allOnes ▸ Iff.rfl

theorem opcodeTable_masks :
    ∀ r ∈ opcodeTable, ∃ k ≤ 12, r.mask.toNat = 15 * 2 ^ 12 + (2 ^ k - 1) := by
  decide

/-- A row of the table selects words of its own family only. -/
theorem family_of_selects {r : OpcodeRow} {op : Word} (hr : r ∈ opcodeTable) (h : r.selects op = true) :
    r.bits.toNat / 4096 = op.toNat / 4096 := by
  obtain ⟨k, hk, hm⟩ := opcodeTable_masks r hr
  exact ((OpcodeRow.selects_iff hk hm).1 h).1.symm

/-! ### The first selected row -/

/-- The number of the first of the rows that selects the word. -/
def firstNumber (rows : List OpcodeRow) (op : Word) : Option Nat := (rows.find? (·.selects op)).map OpcodeRow.number

@[simp] theorem firstNumber_nil (op : Word) : firstNumber [] op = none := rfl

@[simp] theorem firstNumber_cons (r : OpcodeRow) (rows : List OpcodeRow) (op : Word) :
    firstNumber (r :: rows) op = if r.selects op then some r.number else firstNumber rows op := by
  rw [firstNumber, List.find?_cons]
  cases r.selects op <;> rfl

/-- The rows of the opcode table for the words whose top digit is `t`. -/
def familyRows (t : Nat) : List OpcodeRow := opcodeTable.filter (·.bits.toNat / 4096 == t)

/-- The rows of the other families may be left out of the search. -/
theorem firstNumber_familyRows (op : Word) :
    firstNumber opcodeTable op = firstNumber (familyRows (op.toNat / 4096)) op := by
  rw [firstNumber, firstNumber, familyRows, List.find?_filter]
  refine congrArg (Option.map _) (List.find?_congr fun r hr => ?_)
  rw [Bool.eq_iff_iff, decide_eq_true_iff, beq_iff_eq]
  exact ⟨fun h => ⟨family_of_selects hr h, h⟩, And.right⟩

/-- The number of the instruction that the decoder answers. -/
def decodedNumber : Except DecodeReject Instr → Option Nat
  | .ok i => some i.number
  | .error _ => none

/-- In a family of one row that fixes the top digit only, every word selects it. -/
theorem firstNumber_F000 {op : Word} {number : Nat} {bits : Word} (h : op.toNat / 4096 = bits.toNat / 4096)
    (hbits : 0 = bits.toNat % 4096) : firstNumber [⟨number, bits, 0xF000#16⟩] op = some number := by
  rw [firstNumber_cons, if_pos ((selects_F000 ..).2 ⟨h, hbits⟩)]

/-- The one row of family `5` or `9` fixes the low nibble 0 (R77). -/
theorem firstNumber_family59 {op : Word} {bits : Word} (i : Instr) (h : op.toNat / 4096 = bits.toNat / 4096)
    (hbits : 0 = bits.toNat % 4096) :
    firstNumber [⟨i.number, bits, 0xF00F#16⟩] op = decodedNumber (decodeFamily59 false op i) := by
  simp only [firstNumber_cons, selects_F00F, ← hbits, ← fieldN_eq_zero_iff]
  by_cases hn : fieldN op = 0
  · rw [if_pos ⟨h, hn⟩, decodeFamily59_zero hn, decodedNumber]
  · rw [if_neg fun hsel => hn hsel.2, decodeFamily59_strict hn, decodedNumber, firstNumber_nil]

/-- The rows of `00E0` and `00EE` stand before the row of the other words of family `0`. -/
theorem firstNumber_family0 {op : Word} (h : op.toNat / 4096 = 0) :
    firstNumber (familyRows 0) op = some (decodeFamily0 op).number := by
  have hrows : familyRows 0 =
      [⟨2, 0x00E0, 0xFFFF#16⟩, ⟨3, 0x00EE, 0xFFFF#16⟩, ⟨1, 0x0000, 0xF000#16⟩] := by decide
  rw [hrows, firstNumber_cons, firstNumber_cons, firstNumber_F000 h rfl, decodeFamily0]
  simp only [selects_FFFF]
  by_cases hcls : op = 0x00E0
  · rw [if_pos hcls, if_pos hcls, Instr.number]
  by_cases hret : op = 0x00EE
  · rw [if_neg hcls, if_pos hret, if_neg hcls, if_pos hret, Instr.number]
  · rw [if_neg hcls, if_neg hret, if_neg hcls, if_neg hret, Instr.number]

/-- The rows of family `8` differ in the low nibble, which the decoder tests (R75). -/
theorem firstNumber_family8 {op : Word} (h : op.toNat / 4096 = 8) :
    firstNumber (familyRows 8) op = decodedNumber (decodeFamily8 op) := by
  have hrows : familyRows 8 = opcodeRows8 := by decide
  rw [hrows, decodeFamily8, fieldN_val]
  split <;> simp_all [opcodeRows8, selects_F00F, decodedNumber, Instr.number]

/-- The rows of family `E` differ in the low byte, which the decoder tests (R75). -/
theorem firstNumber_familyE {op : Word} (h : op.toNat / 4096 = 0xE) :
    firstNumber (familyRows 0xE) op = decodedNumber (decodeFamilyE op) := by
  have hrows : familyRows 0xE = [⟨25, 0xE09E, 0xF0FF#16⟩, ⟨26, 0xE0A1, 0xF0FF#16⟩] := by decide
  rw [hrows, decodeFamilyE, fieldKK_toNat]
  split <;> simp_all [selects_F0FF, decodedNumber, Instr.number]

/-- The rows of family `F` differ in the low byte, which the decoder tests (R75). -/
theorem firstNumber_familyF {op : Word} (h : op.toNat / 4096 = 0xF) :
    firstNumber (familyRows 0xF) op = decodedNumber (decodeFamilyF op) := by
  have hrows : familyRows 0xF =
      [⟨27, 0xF007, 0xF0FF#16⟩, ⟨28, 0xF00A, 0xF0FF#16⟩, ⟨29, 0xF015, 0xF0FF#16⟩, ⟨30, 0xF018, 0xF0FF#16⟩,
       ⟨31, 0xF01E, 0xF0FF#16⟩, ⟨32, 0xF029, 0xF0FF#16⟩, ⟨33, 0xF033, 0xF0FF#16⟩, ⟨34, 0xF055, 0xF0FF#16⟩,
       ⟨35, 0xF065, 0xF0FF#16⟩] := by decide
  rw [hrows, decodeFamilyF, fieldKK_toNat]
  split <;> simp_all [selects_F0FF, decodedNumber, Instr.number]

theorem firstNumber_eq_decodedNumber (op : Word) : firstNumber opcodeTable op = decodedNumber (decodeWord op) := by
  have hlt : op.toNat / 4096 < 16 := fieldT_val op ▸ (fieldT op).isLt
  rw [firstNumber_familyRows, decodeWord, decodeWordWith, fieldT_val]
  interval_cases h : op.toNat / 4096
  · exact firstNumber_family0 h
  · exact firstNumber_F000 h rfl
  · exact firstNumber_F000 h rfl
  · exact firstNumber_F000 h rfl
  · exact firstNumber_F000 h rfl
  · exact firstNumber_family59 (bits := 0x5000) (.seReg _ _) h rfl
  · exact firstNumber_F000 h rfl
  · exact firstNumber_F000 h rfl
  · exact firstNumber_family8 h
  · exact firstNumber_family59 (bits := 0x9000) (.sneReg _ _) h rfl
  · exact firstNumber_F000 h rfl
  · exact firstNumber_F000 h rfl
  · exact firstNumber_F000 h rfl
  · exact firstNumber_F000 h rfl
  · exact firstNumber_familyE h
  · exact firstNumber_familyF h

/-- Settles O3: the first row that selects the word is the one of the decoded instruction, in each family. -/
theorem decodeAnswersTheFirstSelectedRow : Obligations.DecodeAnswersTheFirstSelectedRow := by
  intro op
  refine (firstNumber_eq_decodedNumber op).trans ?_
  cases decodeWord op <;> rfl

end Sys2Proof
end

section
/-! Control transfer and the skips (spec/40_control_flow.md). -/

namespace Sys2Proof.Machine

/-! ### Targets and conditions -/

/-- `SYS` is encoded as its own address field (R72, R76). -/
theorem encode_sys (nnn : BitVec 12) : encode (.sys nnn) = immAddr nnn :=
  (BitVec.setWidth_eq_append (by decide)).symm

/-- The target of `Bnnn` needs no reduction: it is at most `0xFFF + 0xFF` (R108). -/
theorem immAddr_add_byteAsWord_toNat (nnn : BitVec 12) (b : Byte) :
    (immAddr nnn + byteAsWord b).toNat = nnn.toNat + b.toNat := by
  have hnnn := nnn.isLt
  have hb := b.isLt
  rw [BitVec.toNat_add, immAddr_toNat, byteAsWord_toNat]
  omega

/-- The register that `Bnnn` adds (R108, decision D5): `nnn / 256` is the top digit of `nnn`. -/
theorem State.readV_jumpOperand (s : State) (p : Params) (nnn : BitVec 12) :
    s.readV (jumpOperand p nnn) = if p.jumpIndexedUsesVx then s.V[nnn.toNat / 256]'(by omega) else s.V[0] := by
  have hdigit : (nnn.extractLsb' 8 4).toNat = nnn.toNat / 256 := by
    rw [BitVec.extractLsb'_toNat, Nat.shiftRight_eq_div_pow]
    omega
  rw [jumpOperand]
  split
  · exact getElem_congr_idx (c := s.V) hdigit
  · rfl

theorem State.skipIf_beq (s : State) (a b : Byte) :
    s.skipIf (a == b) = { s with pc := if a.toNat = b.toNat then s.pc + 4 else s.pc + 2 } := by
  simp only [State.skipIf, State.setPc, beq_iff_eq, BitVec.toNat_inj]

theorem State.skipIf_bne (s : State) (a b : Byte) :
    s.skipIf (a != b) = { s with pc := if a.toNat ≠ b.toNat then s.pc + 4 else s.pc + 2 } := by
  simp only [State.skipIf, State.setPc, bne_iff_ne, ne_eq, BitVec.toNat_inj]

theorem State.skipIf_pc_eq_or (s : State) (c : Bool) :
    (s.skipIf c).pc = s.pc + 4 ∨ (s.skipIf c).pc = s.pc + 2 := by
  cases c
  · exact .inr rfl
  · exact .inl rfl

/-- `Fx0A` finds no pressed key exactly where the whole latch is 0 (R26, R152). -/
theorem State.leastPressed_eq_none_iff_key {s : State} : s.leastPressed = none ↔ s.key = 0 := by
  rw [State.leastPressed_eq_none]
  constructor
  · exact fun h => BitVec.eq_of_getLsbD_eq fun k hk => (h ⟨k, hk⟩).trans BitVec.getLsbD_zero.symm
  · intro h k
    rw [State.readKey, h]
    exact BitVec.getLsbD_zero

/-! ### The stack and the fetch -/

section Stack

variable {s : State}

theorem exec_ret_pop (h : 0 < s.sp.val) : exec .ret s = .next (s.pop.setPc (s.top h + 2)) := dif_pos h

theorem exec_ret_underflow (h : s.sp.val = 0) : exec .ret s = .next (s.raise .stackUnderflow) := dif_neg (by omega)

theorem exec_call_push (nnn : BitVec 12) (h : s.sp.val < 16) :
    exec (.call nnn) s = .next ((s.push h).setPc (immAddr nnn)) := dif_pos h

theorem exec_call_overflow (nnn : BitVec 12) (h : s.sp.val = 16) :
    exec (.call nnn) s = .next (s.raise .stackOverflow) := dif_neg (by omega)

theorem State.top_eq_get {k : Fin 16} (h : 0 < s.sp.val) (hk : s.sp.val = k.val + 1) : s.top h = s.stack[k] := by
  simp [State.top, hk]

end Stack

/-- The step from a `pc` with no whole word to fetch (R52, R170). -/
theorem step_fetch_error {s : State} (hs : s.status = .running) (hpc : 0xFFE < s.pc.toNat) :
    step s = .next { s with status := .faulted (.memoryOutOfRange s.pc.toNat), stExpired := false } :=
  cycle_fetch_error hs hpc

/-! ### The obligations -/

/-- Settles O22: an exception keeps `pc` (R172), and a completed instruction sets it as its class says. -/
theorem eachInstructionSetsPcByItsClass : Obligations.EachInstructionSetsPcByItsClass := by
  intro i s t hs h
  rcases exec_eq_next h with ⟨e, rfl⟩ | hc
  · exact ⟨fun _ => rfl, fun hrun => by cases hrun⟩
  · refine ⟨fun hfault => absurd (hc.status_eq.trans hs) hfault, fun _ => ?_⟩
    cases hc with
    | seImm | sneImm | seReg | sneReg | skp | sknp => all_goals exact s.skipIf_pc_eq_or _
    | jp nnn | call nnn => all_goals exact immAddr_toNat nnn
    | jpV0 nnn => exact immAddr_add_byteAsWord_toNat nnn _
    | ret => exact fun _ => rfl
    | ldVxKPressed x k hk =>
      have hkey : s.key ≠ 0 := fun h0 => by simp [State.leastPressed_eq_none_iff_key.2 h0] at hk
      exact (if_neg hkey).mpr rfl
    | ldVxKBlocked x hnone => exact (if_pos (State.leastPressed_eq_none_iff_key.1 hnone)).mpr rfl
    | _ => rfl

/-- Settles O26: the new entry is the only one that the push changes. -/
theorem callPushesItsOwnAddress : Obligations.CallPushesItsOwnAddress :=
  fun nnn s => ⟨fun h => ⟨_, exec_call_push nnn h, rfl, immAddr_toNat nnn, s.push_stack_get h, rfl⟩,
    exec_call_overflow nnn⟩

/-- Settles O27: the entry on top of the stack that the call left is the call's own address. -/
theorem callThenReturnResumesAfterTheCall : Obligations.CallThenReturnResumesAfterTheCall := by
  intro nnn s t t' h hcall hsp hstack
  obtain rfl := Host.Outcome.next.inj ((exec_call_push nnn h).symm.trans hcall)
  have hdepth : t'.sp.val = s.sp.val + 1 := congrArg Fin.val hsp
  have hget (k : Fin 16) : t'.stack[k] = if k.val = s.sp.val then s.pc else s.stack[k] := by
    rw [hstack]
    exact s.push_stack_get h k
  have hpos : 0 < t'.sp.val := by omega
  have htop : t'.top hpos = s.pc := by
    rw [State.top_eq_get (k := ⟨s.sp.val, h⟩) hpos hdepth, hget, if_pos rfl]
  refine ⟨_, exec_ret_pop hpos, congrArg (· + 2) htop, Fin.ext ?_, fun k hk => ?_⟩
  · exact Nat.sub_eq_of_eq_add hdepth
  · exact (hget k).trans (if_neg hk.ne)

/-- Settles O29: the sum of R108 is at most `0x10FE`, so the word holds it. -/
theorem indexedJumpReplacesPc : Obligations.IndexedJumpReplacesPc := by
  intro nnn s p hs
  refine ⟨⟨_, rfl, immAddr_add_byteAsWord_toNat nnn _, rfl, step_fetch_error hs⟩, _, rfl, rfl, ?_⟩
  rw [← s.readV_jumpOperand p nnn]
  exact immAddr_add_byteAsWord_toNat nnn _

/-- Settles O30: two bytes are equal exactly where their values are. -/
theorem comparisonSkips : Obligations.ComparisonSkips :=
  fun x y kk s => ⟨congrArg _ (s.skipIf_beq s.V[x] kk), congrArg _ (s.skipIf_bne s.V[x] kk),
    congrArg _ (s.skipIf_beq s.V[x] s.V[y]), congrArg _ (s.skipIf_bne s.V[x] s.V[y])⟩

/-- Settles O24: the recorded word is the one that the instruction encodes to. -/
theorem sysTakesIllegalInstruction : Obligations.SysTakesIllegalInstruction := by
  intro nnn s p
  rw [encode_sys]
  refine ⟨rfl, fun hp => ?_⟩
  rw [execWith, execSysWith, hp]
  rfl

/-- Settles O25: a pop takes the top entry, and a return from the empty stack faults. -/
theorem returnPopsAndResumesAfterTheCall : Obligations.ReturnPopsAndResumesAfterTheCall :=
  fun s => ⟨fun h => ⟨_, exec_ret_pop h, rfl, BitVec.toNat_add (s.top h) 2, rfl⟩, exec_ret_underflow⟩

/-- Settles O28: a 12-bit target is above `0xFFE` only as `0xFFF`. -/
theorem jumpReplacesPc : Obligations.JumpReplacesPc := by
  intro nnn s hs
  have hpc : (s.setPc (immAddr nnn)).pc.toNat = nnn.toNat := immAddr_toNat nnn
  refine ⟨_, rfl, hpc, rfl, fun hhigh => ⟨?_, step_fetch_error hs hhigh⟩⟩
  have hnnn := nnn.isLt
  omega

end Sys2Proof.Machine
end

section
/-! Register moves, arithmetic, logic, shifts, random (spec/41_alu.md). -/

namespace Sys2Proof.Machine

open Sys2Proof.Claims

/-! ### What the two register updates of the family write -/

theorem State.writeV_get_self (s : State) (x : Reg) (v : Byte) : (s.writeV x v).V[x] = v := by
  rw [State.writeV_get, if_pos rfl]

/-- An instruction that ends by writing `V[x]` writes nothing else, `V[15]` included (R120 to R125). -/
theorem State.writeV_writesOnly (s : State) (x : Reg) {v : Byte} {n : Nat} (hv : v.toNat = n) :
    WritesOnly s (s.writeV x v).advance x n := by
  refine ⟨fun r => ?_, rfl⟩
  rw [State.advance_V, State.writeV_get, apply_ite BitVec.toNat, hv]

/-- A result that is known bit by bit, as the logic operations state theirs (R123, R124, R125). -/
theorem State.writeV_writesOnly_bits (s : State) (x : Reg) {v : Byte} {bit : Nat → Bool}
    (hv : ∀ b, v.getLsbD b = bit b) :
    WritesOnly s (s.writeV x v).advance x (s.writeV x v).advance.V[x].toNat ∧
      ∀ b, (s.writeV x v).advance.V[x].getLsbD b = bit b := by
  have hx : (s.writeV x v).advance.V[x] = v := s.writeV_get_self x v
  rw [hx]
  exact ⟨s.writeV_writesOnly x rfl, hv⟩

/-- An instruction that ends by writing a result and then its flag (R134, R135). -/
theorem State.writeFlagged_writesThenFlag (s : State) (x : Reg) {b : FlaggedByte} {v flag : Nat}
    (hv : b.value.toNat = v) (hflag : (if b.flag then 1 else 0) = flag) :
    WritesThenFlag s (s.writeFlagged x b).advance x v flag := by
  have hbyte : (if b.flag then 1 else 0 : Byte).toNat = flag := (apply_ite BitVec.toNat _ _ _).trans hflag
  refine ⟨fun r => ?_, rfl⟩
  rw [State.advance_V, State.writeFlagged_get, apply_ite BitVec.toNat, apply_ite BitVec.toNat (r = x), hbyte, hv]

/-! ### The arithmetic at a register -/

/-- `Sub(first, second)` into `V[x]`, whichever operand is `V[x]` itself (R127, R129). -/
theorem State.writeFlagged_sub_writesThenFlag (s : State) (x : Reg) (first second : Byte) :
    WritesThenFlag s (s.writeFlagged x (subFlagged first second)).advance x
      ((first.toNat + 256 - second.toNat) % 256) (if first.toNat ≥ second.toNat then 1 else 0) :=
  s.writeFlagged_writesThenFlag x (subFlagged_value first second) (if_congr (subFlagged_flag first second) rfl rfl)

/-- `8xy6` at any value of `SHIFT_SOURCE`: the flag is the bit that leaves at the right (R128). -/
theorem execShrWith_writesThenFlag (p : Params) (x y : Reg) (s : State) :
    ∃ t, execShrWith p x y s = .next t ∧ WritesThenFlag s t x
      ((s.readV (shiftOperand p x y)).toNat / 2) ((s.readV (shiftOperand p x y)).toNat % 2) := by
  refine ⟨_, rfl, s.writeFlagged_writesThenFlag x (shrFlagged_value _) ?_⟩
  rw [if_congr (shrFlagged_flag _) rfl rfl]
  split <;> omega

/-- `8xyE` at any value of `SHIFT_SOURCE`: the flag is the bit that leaves at the left (R130). -/
theorem execShlWith_writesThenFlag (p : Params) (x y : Reg) (s : State) :
    ∃ t, execShlWith p x y s = .next t ∧ WritesThenFlag s t x
      (2 * (s.readV (shiftOperand p x y)).toNat % 256) ((s.readV (shiftOperand p x y)).toNat / 128) := by
  refine ⟨_, rfl, s.writeFlagged_writesThenFlag x (shlFlagged_value _) ?_⟩
  rw [if_congr (shlFlagged_flag _) rfl rfl]
  split <;> omega

/-! ### The obligations -/

/-- Settles O31: each answers by one register write, and the bits of a logic result are the operation's on the bits of
its operands. -/
theorem movesAndLogicWriteOneRegister : Obligations.MovesAndLogicWriteOneRegister := by
  intro x y kk s
  refine ⟨?ldImm, ?ldReg, ?orReg, ?andReg, ?xorReg⟩
  case ldImm | ldReg => all_goals exact ⟨_, rfl, s.writeV_writesOnly x rfl⟩
  case orReg => exact ⟨_, rfl, s.writeV_writesOnly_bits x fun _ => BitVec.getLsbD_or⟩
  case andReg => exact ⟨_, rfl, s.writeV_writesOnly_bits x fun _ => BitVec.getLsbD_and⟩
  case xorReg => exact ⟨_, rfl, s.writeV_writesOnly_bits x fun _ => BitVec.getLsbD_xor⟩

/-- Settles O33: the carry is the sum's passing 255. -/
theorem addRegistersWritesCarry : Obligations.AddRegistersWritesCarry :=
  fun x _ s => ⟨_, rfl, s.writeFlagged_writesThenFlag x (addFlagged_value _ _) (if_congr (addFlagged_flag _ _) rfl rfl)⟩

/-- Settles O34: the two subtractions are one, with the operands exchanged. -/
theorem subtractionsWriteNotBorrow : Obligations.SubtractionsWriteNotBorrow :=
  fun x y s => ⟨⟨_, rfl, s.writeFlagged_sub_writesThenFlag x s.V[x] s.V[y]⟩,
    ⟨_, rfl, s.writeFlagged_sub_writesThenFlag x s.V[y] s.V[x]⟩⟩

/-- Settles O35: the model of record shifts as the variant at the defaults does, and `a` is the operand of the variant
at `p`. -/
theorem shiftsWriteTheBitShiftedOut : Obligations.ShiftsWriteTheBitShiftedOut := by
  intro p x y s a ha
  have hoperand : a = (s.readV (shiftOperand p x y)).toNat := by
    rw [ha, shiftOperand]
    cases p.shiftSource <;> rfl
  rw [hoperand]
  exact ⟨execShrWith_writesThenFlag Config.record x y s, execShlWith_writesThenFlag Config.record x y s,
    execShrWith_writesThenFlag p x y s, execShlWith_writesThenFlag p x y s⟩

/-- Settles O36: `V[x]` is the drawn byte masked, and no bit outside the mask is left in it. -/
theorem randomByteIsMasked : Obligations.RandomByteIsMasked := by
  intro x kk s
  have hx (r : Byte) : (s.countDraw.writeV x (r &&& kk)).advance.V[x] = r &&& kk := s.countDraw.writeV_get_self x _
  refine ⟨fun r => ⟨_, rfl, fun b => ?_, fun j hj => ?_, rfl⟩, Config.randByte s.draws, _, rfl, rfl, ?_⟩
  · rw [hx, BitVec.getLsbD_and]
  · exact (s.countDraw.writeV_get x j _).trans (if_neg hj)
  · rw [hx, BitVec.and_assoc, BitVec.and_not_self]
    exact BitVec.and_zero

/-- Settles O32: the sum's value without its flag. -/
theorem addImmediateWrapsWithNoFlag : Obligations.AddImmediateWrapsWithNoFlag :=
  fun x _ s => ⟨_, rfl, s.writeV_writesOnly x (addFlagged_value _ _)⟩

end Sys2Proof.Machine
end

section
/-! The display (spec/42_display.md): the sprite's pixels, the collision flag, and a second draw of one sprite. -/

namespace Sys2Proof.Machine

open Sys2Proof.Claims

/-! ### The sprite of `Dxyn` (R141, R142) -/

/-- The places of the sprite that `Dxyn` reads are the pixels that R141 and R142 name. -/
theorem mem_spritePlaces_readBytes (s : State) (x y : Reg) (n : Fin 16) (px : Fin 64) (py : Fin 32) :
    (px, py) ∈ spritePlaces (s.readV x).toNat (s.readV y).toNat (s.mem.readBytes s.I.toNat n) ↔
      SpriteCovers s x y n px py := by
  rw [mem_spritePlaces]
  simp only [Memory.readBytes, List.getElem_map, List.getElem_range, List.length_map, List.length_range, exists_prop]
  rfl

/-- A sprite stays where it is in every state with the same sprite bytes and coordinates. -/
theorem spriteCovers_congr {s t : State} {x y : Reg} (hmem : t.mem = s.mem) (hI : t.I = s.I)
    (hx : t.V[x] = s.V[x]) (hy : t.V[y] = s.V[y]) (n : Fin 16) (px : Fin 64) (py : Fin 32) :
    SpriteCovers t x y n px py ↔ SpriteCovers s x y n px py := by
  rw [SpriteCovers, SpriteCovers, hmem, hI, hx, hy]

theorem readBytes_length_le (m : Memory) (base : Nat) (n : Fin 16) : (m.readBytes base n).length ≤ 32 := by
  have hn := n.isLt
  simp only [Memory.readBytes, List.length_map, List.length_range]
  omega

/-- The framebuffer of a draw: the covered pixels flip (R141). -/
theorem pixel_drwResult (x y : Reg) (n : Fin 16) (s : State) (px : Fin 64) (py : Fin 32) :
    pixel (drwResult x y n s).1 px py = true ↔ Xor (pixel s.fb px py = true) (SpriteCovers s x y n px py) := by
  rw [drwResult, (drawSprite_spec _ _ _ (readBytes_length_le ..)).1, Bool.coe_xor_iff, decide_eq_true_iff,
    mem_spritePlaces_readBytes]

/-- The flag of a draw: a covered pixel was White (R141). -/
theorem drwResult_flag (x y : Reg) (n : Fin 16) (s : State) :
    (drwResult x y n s).2 = true ↔ ∃ px py, pixel s.fb px py = true ∧ SpriteCovers s x y n px py := by
  rw [drwResult, (drawSprite_spec _ _ _ (readBytes_length_le ..)).2]
  simp only [mem_spritePlaces_readBytes, and_comm]

/-! ### `Dxyn` where it completes and where it faults (R144) -/

theorem exec_drw_completes {x y : Reg} {n : Fin 16} {s : State} (h : n.val = 0 ∨ s.I.toNat + n.val - 1 ≤ 0xFFF) :
    exec (.drw x y n) s = .next ((s.paint (drwResult x y n s).1).setFlag (drwResult x y n s).2).advance := by
  have hcheck : outOfRange s.I.toNat n = none := outOfRange_eq_none.2 (by omega)
  exact congrArg (complete · s _) hcheck

theorem exec_drw_fault {x y : Reg} {n : Fin 16} {s : State} (h0 : 0 < n.val) (h : s.I.toNat + n.val - 1 > 0xFFF) :
    exec (.drw x y n) s = .next (s.raise (.memoryOutOfRange (max s.I.toNat 0x1000))) :=
  congrArg (complete · s _) (outOfRange_of_lt h0 (by omega))

/-! ### The flag byte (R134) -/

theorem State.setFlag_get_flag (s : State) (f : Bool) : (s.setFlag f).V[15] = if f then 1 else 0 :=
  s.setFlag_get f 15

theorem State.setFlag_get_flag_eq_or (s : State) (f : Bool) :
    (s.setFlag f).V[15] = 1 ∨ (s.setFlag f).V[15] = 0 := by
  rw [State.setFlag_get_flag]
  cases f
  · exact .inr rfl
  · exact .inl rfl

theorem State.setFlag_get_flag_eq_one (s : State) (f : Bool) : (s.setFlag f).V[15] = 1 ↔ f = true := by
  rw [State.setFlag_get_flag]
  cases f <;> decide

/-! ### The obligations -/

/-- Settles O38: the covered pixels flip, the flag gathers their old values and is written last (D8). -/
theorem drawTogglesTheSpritePixels : Obligations.DrawTogglesTheSpritePixels := by
  intro x y n s
  refine ⟨fun h => ⟨_, exec_drw_completes h, pixel_drwResult x y n s, State.setFlag_get_flag_eq_or _ _, ?_,
    fun r hr => ?_, rfl⟩, fun ⟨h0, h⟩ => exec_drw_fault h0 h⟩
  · exact (State.setFlag_get_flag_eq_one _ _).trans (drwResult_flag x y n s)
  · exact (State.setFlag_get _ _ r).trans (if_neg hr)

/-- Settles O39: both draws cover the same pixels, so each covered pixel flips twice; a pixel that the first draw turned
White is covered and White when the second begins. -/
theorem drawingTwiceRestoresTheFramebuffer : Obligations.DrawingTwiceRestoresTheFramebuffer := by
  intro x y n s t t' h hdraw hfb hmem hI hx hy
  have hcovers := spriteCovers_congr hmem hI hx hy n
  obtain ⟨t₁, hdraw₁, hpixel, -⟩ := (drawTogglesTheSpritePixels x y n s).1 h
  obtain rfl := Host.Outcome.next.inj (hdraw.symm.trans hdraw₁)
  obtain ⟨u, hdraw₂, hpixel₂, -, hflag, -⟩ := (drawTogglesTheSpritePixels x y n t').1 (hI ▸ h)
  simp only [hfb, hcovers] at hpixel₂ hflag
  refine ⟨u, hdraw₂, Framebuffer_ext fun px py => ?_, hflag, ?_⟩
  · rw [Bool.eq_iff_iff, hpixel₂, hpixel, ← symmDiff_eq_xor, ← symmDiff_eq_xor, symmDiff_symmDiff_cancel_right]
  · rintro ⟨px, py, hblack, hwhite⟩
    have hcovered : SpriteCovers s x y n px py :=
      ((hpixel px py).1 hwhite).or.resolve_left (Bool.eq_false_iff.1 hblack)
    exact hflag.2 ⟨px, py, hwhite, hcovered⟩

/-- Settles O37: the framebuffer that `CLS` paints has no White pixel. -/
theorem clearBlanksEveryPixel : Obligations.ClearBlanksEveryPixel :=
  fun _ => ⟨_, rfl, pixel_blank, rfl⟩

end Sys2Proof.Machine
end

section
/-! Keypad and timers (spec/43_keypad_timers.md). -/

namespace Sys2Proof.Machine

open Sys2Proof.Claims

/-! ### The key skips and the key wait, by what the keypad answers -/

section Keys

variable {x : Reg} {s : State}

theorem exec_skp_ok (h : s.V[x].toNat ≤ 15) :
    exec (.skp x) s = .next (s.skipIf (s.key.getLsbD s.V[x].toNat)) := by
  simp only [exec, execSkp, State.readV_eq, keyIndex_ok (Nat.lt_succ_of_le h), State.readKey]

theorem exec_sknp_ok (h : s.V[x].toNat ≤ 15) :
    exec (.sknp x) s = .next (s.skipIf (!s.key.getLsbD s.V[x].toNat)) := by
  simp only [exec, execSknp, State.readV_eq, keyIndex_ok (Nat.lt_succ_of_le h), State.readKey]

theorem exec_skp_fault (h : s.V[x].toNat > 15) : exec (.skp x) s = .next (s.raise (.invalidKeyIndex s.V[x])) := by
  simp only [exec, execSkp, State.readV_eq, keyIndex_error h, complete_some]

theorem exec_sknp_fault (h : s.V[x].toNat > 15) : exec (.sknp x) s = .next (s.raise (.invalidKeyIndex s.V[x])) := by
  simp only [exec, execSknp, State.readV_eq, keyIndex_error h, complete_some]

theorem exec_ldVxK_pressed {k : Reg} (h : s.leastPressed = some k) :
    exec (.ldVxK x) s = .next (s.writeV x (BitVec.ofNat 8 k.val)).advance := by
  simp only [exec, execLdVxK, h]

theorem exec_ldVxK_blocked (h : s.leastPressed = none) : exec (.ldVxK x) s = .next s := by
  simp only [exec, execLdVxK, h]

end Keys

/-- A skip on the negation of a bit, with the condition of R151 as the bit's being 0. -/
theorem State.skipIf_not (s : State) (b : Bool) :
    s.skipIf (!b) = { s with pc := if b = false then s.pc + 4 else s.pc + 2 } := by
  simp only [State.skipIf, State.setPc, Bool.not_eq_true']

/-- A register's index as the byte that `Fx0A` writes. -/
theorem regByte_toNat (k : Reg) : (BitVec.ofNat 8 k.val).toNat = k.val := by
  rw [BitVec.toNat_ofNat]
  omega

/-! ### The obligations -/

/-- Settles O40: a register of at most 15 is a key index, and any other takes the exception of the range check. -/
theorem keySkips : Obligations.KeySkips := by
  intro x s
  refine ⟨fun h => ⟨exec_skp_ok h, ?_⟩, fun h => ⟨exec_skp_fault h, exec_sknp_fault h⟩⟩
  rw [exec_sknp_ok h, State.skipIf_not]

/-- Settles O41: the scan in ascending order finds the least pressed key, whose index the byte holds. -/
theorem keyWaitTakesTheLeastPressedKey : Obligations.KeyWaitTakesTheLeastPressedKey := by
  intro x s
  refine ⟨fun k hk hleast => ?pressed, fun hnone => ?blocked⟩
  case pressed =>
    have hscan : s.leastPressed = some k := State.leastPressed_eq_some.2 ⟨hk, hleast⟩
    exact ⟨_, exec_ldVxK_pressed hscan, s.writeV_writesOnly x (regByte_toNat k)⟩
  case blocked => exact exec_ldVxK_blocked (State.leastPressed_eq_none.2 hnone)

/-- Settles O42: each move is one register or timer write, and the output is 1 where the timer written is not 0. -/
theorem timerMovesCopyOneByte : Obligations.TimerMovesCopyOneByte :=
  fun x s => ⟨⟨_, rfl, s.writeV_writesOnly x rfl⟩, rfl, _, rfl, rfl, State.soundActive_iff _⟩

end Sys2Proof.Machine
end

section
/-! Index register and memory (spec/44_index_memory.md). -/

namespace Sys2Proof.Machine

open Sys2Proof.Claims

/-! ### The checks of the family, where they pass and where they fail (R64, R162, R172) -/

/-- A range check that fails raises its exception, whatever the instruction would have completed as. -/
theorem complete_outOfRange_fault {base count : Nat} (s done : State) (h0 : 0 < count) (h : 0x1000 < base + count) :
    complete (outOfRange base count) s done = .next (s.raise (.memoryOutOfRange (max base 0x1000))) := by
  rw [outOfRange_of_lt h0 h, complete_some]

section Checks

variable {s : State} {x : Reg}

theorem exec_ldF_ok (h : s.V[x].toNat ≤ 15) :
    exec (.ldF x) s = .next (s.setI (glyphAddr ⟨s.V[x].toNat, Nat.lt_succ_of_le h⟩)).advance := by
  simp only [exec, execLdF, State.readV_eq, fontDigit_ok (Nat.lt_succ_of_le h)]

theorem exec_ldF_fault (h : s.V[x].toNat > 15) : exec (.ldF x) s = .next (s.raise (.invalidFontDigit s.V[x])) := by
  simp only [exec, execLdF, State.readV_eq, fontDigit_error h, complete_some]

theorem exec_ldB_fault (h : s.I.toNat + 2 > 0xFFF) :
    exec (.ldB x) s = .next (s.raise (.memoryOutOfRange (max s.I.toNat 0x1000))) :=
  complete_outOfRange_fault s _ (by decide) (by omega)

theorem execWith_ldMemVx_fault (p : Params) (h : s.I.toNat + x.val > 0xFFF) :
    execWith p (.ldMemVx x) s = .next (s.raise (.memoryOutOfRange (max s.I.toNat 0x1000))) :=
  complete_outOfRange_fault s _ (Nat.succ_pos _) (by omega)

theorem execWith_ldVxMem_fault (p : Params) (h : s.I.toNat + x.val > 0xFFF) :
    execWith p (.ldVxMem x) s = .next (s.raise (.memoryOutOfRange (max s.I.toNat 0x1000))) :=
  complete_outOfRange_fault s _ (Nat.succ_pos _) (by omega)

theorem exec_ldVxMem_inRange (h : s.I.toNat + x.val ≤ 0xFFF) : exec (.ldVxMem x) s = .next (s.loadFromI x).advance :=
  congrArg (complete · s _) (outOfRange_eq_none.2 (.inr (by omega)))

end Checks

/-! ### `I` after `Fx55` and `Fx65` (R164, R165, decision D7) -/

theorem State.stepI_eq (p : Params) (s : State) (x : Reg) :
    s.stepI p x =
      { s with I := if p.loadStoreIncrementsI then BitVec.ofNat 16 (s.I.toNat + x.val + 1) else s.I } := by
  have hsum : s.I + BitVec.ofNat 16 (x.val + 1) = BitVec.ofNat 16 (s.I.toNat + x.val + 1) := by
    rw [Nat.add_assoc, BitVec.ofNat_add s.I.toNat, BitVec.ofNat_toNat, BitVec.setWidth_eq]
  rw [State.stepI, hsum]
  split <;> rfl

/-- `Fx55` and `Fx65` in range at any value of `LOAD_STORE_INCREMENTS_I`: the transfer `done`, and then `I`. -/
theorem complete_stepI_inRange (p : Params) {s done : State} {x : Reg} (hI : done.I = s.I)
    (h : s.I.toNat + x.val ≤ 0xFFF) :
    complete (outOfRange s.I.toNat (x.val + 1)) s (done.stepI p x).advance = .next { done.advance with
      I := if p.loadStoreIncrementsI then BitVec.ofNat 16 (s.I.toNat + x.val + 1) else s.I } := by
  rw [outOfRange_eq_none.2 (.inr (by omega)), complete_none, State.stepI_eq, hI]
  rfl

/-! ### The bytes stored, as R163 and R164 name them -/

theorem byteAfterBcd_toNat (s : State) (x : Reg) (a : Nat) :
    (byteAfterBcd s x a).toNat =
      if a = s.I.toNat then s.V[x].toNat / 100
      else if a = s.I.toNat + 1 then s.V[x].toNat / 10 % 10
      else if a = s.I.toNat + 2 then s.V[x].toNat % 10
      else (s.mem.read a).toNat := by
  have hv := s.V[x].isLt
  have digit {d : Nat} (hd : d < 256) : (BitVec.ofNat 8 d).toNat = d := Nat.mod_eq_of_lt hd
  simp only [byteAfterBcd, apply_ite BitVec.toNat]
  rw [digit (by omega), digit (by omega), digit (by omega)]

theorem byteAfterDump_register (s : State) {i x : Reg} (h : i ≤ x) :
    byteAfterDump s x (s.I.toNat + i.val) = s.V[i] := by
  rw [byteAfterDump, dif_pos ⟨Nat.le_add_right _ _, Nat.add_le_add_left h _⟩]
  exact getElem_congr_idx (c := s.V) (Nat.add_sub_cancel_left _ _)

theorem byteAfterDump_outside (s : State) {x : Reg} {a : Nat} (h : a < s.I.toNat ∨ s.I.toNat + x.val < a) :
    byteAfterDump s x a = s.mem.read a := dif_neg (by omega)

/-! ### The obligations -/

/-- Settles O44: a register of at most 15 is a digit with a glyph, and any other takes the exception of the range
check. -/
theorem fontDigitGivesItsGlyphAddress : Obligations.FontDigitGivesItsGlyphAddress :=
  fun _ _ => ⟨fun h => ⟨_, exec_ldF_ok h, glyphAddr_toNat _, rfl⟩, exec_ldF_fault⟩

/-- Settles O45: the store in range changes the three bytes only, and each digit fits its byte. -/
theorem bcdStoresThreeDigits : Obligations.BcdStoresThreeDigits := by
  intro x s hm
  refine ⟨fun h => ⟨_, exec_ldB_inRange h, fun a => ?_, rfl⟩, exec_ldB_fault⟩
  rw [State.advance_mem, read_storeAtI_bcdDigits hm h, byteAfterBcd_toNat]

/-- Settles O46: the model of record dumps as the variant at the defaults does, and the variant at `p` differs from it
in `I` alone. -/
theorem registerDumpStoresFromI : Obligations.RegisterDumpStoresFromI := by
  intro x s p hm
  refine ⟨fun h => ⟨_, exec_ldMemVx_inRange h, fun i hi => ?stored, fun a ha => ?kept, rfl,
    complete_stepI_inRange p rfl h⟩, fun h => ?fault⟩
  case stored => rw [State.advance_mem, read_storeAtI_take_V hm h, byteAfterDump_register s hi]
  case kept => rw [State.advance_mem, read_storeAtI_take_V hm h, byteAfterDump_outside s ha]
  case fault =>
    have hrecord := execWith_ldMemVx_fault Config.record h
    exact ⟨hrecord, (execWith_ldMemVx_fault p h).trans hrecord.symm⟩

/-- Settles O47: the loaded registers are those of `loadedV`, and the variant at `p` differs from the model of record
in `I` alone. -/
theorem registerLoadReadsFromI : Obligations.RegisterLoadReadsFromI := by
  intro x s p
  refine ⟨fun h => ⟨_, exec_ldVxMem_inRange h, s.loadedV_get s.I.toNat x, rfl, complete_stepI_inRange p rfl h⟩,
    fun h => ?_⟩
  have hrecord := execWith_ldVxMem_fault Config.record h
  exact ⟨hrecord, (execWith_ldVxMem_fault p h).trans hrecord.symm⟩

/-- Settles O43: an address immediate and a register byte keep their values as words (R73). -/
theorem indexLoadAndAdd : Obligations.IndexLoadAndAdd := by
  intro nnn x s
  refine ⟨⟨_, rfl, immAddr_toNat nnn, rfl⟩, _, rfl, ?_, rfl⟩
  rw [State.advance_I, State.setI_I, BitVec.toNat_add, byteAsWord_toNat, State.readV_eq]

end Sys2Proof.Machine
end

section
/-! Exceptions and the divide-by-10 (spec/60_exceptions.md): what a step of a running block answers, the faults it
takes, and the tick after it. -/

namespace Sys2Proof.Machine

/-! ### A step of a running block (R170) -/

theorem finish_next_total (t : State) : ∃ u, finish (.next t) = .next u := by
  rw [finish]
  split <;> exact ⟨_, rfl⟩

/-- A running block always has a next state (R170): the fetch, the decoder and the instruction each answer one. -/
theorem step_total {s : State} (hs : s.status = .running) : ∃ t, step s = .next t := by
  by_cases hpc : 0xFFE < s.pc.toNat
  · exact ⟨_, step_fetch_error hs hpc⟩
  · obtain ⟨hok, herr⟩ := step_of_fetched hs (not_lt.1 hpc) rfl
    cases hd : decodeWord (s.mem.readWord s.pc.toNat) with
    | error r => exact ⟨_, herr r hd⟩
    | ok i =>
      obtain ⟨t, ht⟩ := exec_total i s
      rw [hok i hd, ht]
      exact finish_next_total t

/-- Settles O6: the fetched word is the two bytes at `pc`, and an instruction always answers a next state. -/
theorem stepRunsTheDecodedInstruction : Obligations.StepRunsTheDecodedInstruction := by
  intro s hs
  refine ⟨step_fetch_error hs, fun op hpc hop => ?_⟩
  obtain ⟨hok, herr⟩ := step_of_fetched hs hpc hop.symm
  refine ⟨herr, fun i hi => ?_⟩
  obtain ⟨t, ht⟩ := exec_total i s
  refine ⟨t, ht, fun hrun => ?_, fun hstop => ?_⟩
  · rw [hok i hi, ht, finish_running hrun]
  · rw [hok i hi, ht, finish_faulted hstop]

/-! ### The faults of a step (R171, R172, R173, R176) -/

/-- A step that does not leave the block running took an exception (R172). -/
theorem step_eq_raise {s t : State} (h : step s = .next t) (ht : t.status ≠ .running) : ∃ e, t = s.raise e := by
  obtain ⟨hs, hfault | ⟨-, i, u, -, -, hc, rfl⟩⟩ := step_eq_next h
  · exact hfault
  · exact absurd ((tick_status u).trans (hc.status_eq.trans hs)) ht

/-- Where the conditions name an exception, the step takes it and does nothing else (R171, R172). -/
theorem step_of_stepFault {s : State} {e : Exc} (hs : s.status = .running) (h : stepFault s = some e) :
    step s = .next (s.raise e) := by
  obtain ⟨t, ht⟩ := step_total hs
  have hstatus : t.status = .faulted e := (step_faulted_iff ht e).2 h
  obtain ⟨e', rfl⟩ := step_eq_raise ht (by simp [hstatus])
  obtain rfl : e' = e := Status.faulted.inj hstatus
  exact ht

/-- Settles O9: a next state there always is, and `step_status` says its status. -/
theorem stepFaultsExactlyWhereTheSpecSays : Obligations.StepFaultsExactlyWhereTheSpecSays := by
  intro s hs
  obtain ⟨t, ht⟩ := step_total hs
  refine ⟨t, ht, (step_status ht).trans ?_⟩
  cases stepFault s <;> rfl

/-- Settles O11: the conditions never name this exception. -/
theorem invalidRegisterIndexIsUnreachable : Obligations.InvalidRegisterIndexIsUnreachable :=
  fun _ _ _ _ h hstatus => stepFault_stepInfo ((step_faulted_iff h _).1 hstatus)

/-- The first condition alone names `IllegalInstruction`, with the whole word (R78, R173). -/
theorem wordFault_eq_illegalInstruction_iff {s : State} {w op : Word} :
    wordFault s w.toNat = some (.illegalInstruction op) ↔ op = w ∧ isIllegalWord w.toNat = true := by
  by_cases hill : isIllegalWord w.toNat = true
  · simp [wordFault, hill, eq_comm]
  · refine iff_of_false (fun h => ?_) (fun h => hill h.2)
    rw [wordFault, if_neg hill] at h
    split_ifs at h <;> cases h

/-- Settles O10: the word whose illegality the conditions test is the fetched one. -/
theorem illegalWordsTrap : Obligations.IllegalWordsTrap := by
  intro s hs hpc
  have hfault (op : Word) : stepFault s = some (.illegalInstruction op) ↔
      op = s.mem.readWord s.pc.toNat ∧ isIllegalWord (s.mem.readWord s.pc.toNat).toNat = true := by
    rw [stepFault_eq_wordFault hpc, wordFault_eq_illegalInstruction_iff]
  refine ⟨fun hill => step_of_stepFault hs ((hfault _).2 ⟨rfl, hill⟩), fun t op h hstatus => ?_⟩
  obtain ⟨rfl, hill⟩ := (hfault op).1 ((step_faulted_iff h _).1 hstatus)
  exact ⟨rfl, hill⟩

/-! ### A faulted block (R172, decision D12) -/

/-- Whatever the host does short of a `Reset`, a faulted block stays as it is (R172; log 2). -/
theorem Block.act_faulted {s : State} {e : Exc} (hs : s.status = .faulted e) {a : HostAction}
    (ha : ∀ rom, a ≠ .reset rom) : Block.act (some s) a = some s := by
  have hne : s.status ≠ .running := by simp [hs]
  cases a with
  | reset rom => exact absurd rfl (ha rom)
  | step => exact congrArg some (State.stepped_faulted hs)
  | setKey k pressed => exact congrArg some (State.setKey_faulted hne k pressed)
  | ackRedraw => exact congrArg some (State.ackRedraw_faulted hne)

theorem Block.acts_faulted {s : State} {e : Exc} (hs : s.status = .faulted e) :
    ∀ as : List HostAction, (∀ a ∈ as, ∀ rom, a ≠ .reset rom) → Block.acts (some s) as = some s
  | [], _ => rfl
  | a :: as, h => by
    obtain ⟨ha, has⟩ := List.forall_mem_cons.1 h
    rw [Block.acts, List.foldl_cons, Block.act_faulted hs ha]
    exact Block.acts_faulted hs as has

/-- Settles O8: the state is the one that `raise` leaves, and it takes neither a step nor an input. -/
theorem faultIsPreciseAndTerminal : Obligations.FaultIsPreciseAndTerminal := by
  intro s t h ht
  obtain ⟨e, rfl⟩ := step_eq_raise h ht
  exact ⟨rfl, fun _ he => cycle_faulted he, Block.acts_faulted (s.raise_status e)⟩

/-! ### The tick after an instruction (R181, R182) -/

theorem tick_stExpired_iff (t : State) : (tick t).stExpired = true ↔ t.div.val = 9 ∧ t.ST.toNat = 1 :=
  (tick_stExpired t).trans (and_congr_right' BitVec.toNat_inj.symm)

/-- Settles O7: the step ends in the tick of the state that the instruction leaves. -/
theorem tickFollowsANonFaultingInstruction : Obligations.TickFollowsANonFaultingInstruction :=
  fun _ t _ hs hpc hi hex ht => ⟨tick t, step_of_exec hs hpc hi hex ht, tick_div t, tick_DT t, tick_ST t,
    tick_stExpired_iff t, tick_frame t⟩

section Wrap

variable {t : State}

theorem tick_div_wrap (h : t.div.val = 9) : (tick t).div.val = 0 := by
  rw [tick_div, h]

theorem tick_DT_wrap (h : t.div.val = 9) : (tick t).DT.toNat = t.DT.toNat - 1 :=
  (tick_DT t).trans (if_pos h)

theorem tick_ST_wrap (h : t.div.val = 9) : (tick t).ST.toNat = t.ST.toNat - 1 :=
  (tick_ST t).trans (if_pos h)

theorem tick_stExpired_wrap (h : t.div.val = 9) : (tick t).stExpired = true ↔ t.ST.toNat = 1 :=
  (tick_stExpired_iff t).trans (and_iff_right h)

end Wrap

/-- Settles O15: the tick acts on the state that the timer move leaves, whose divider is still 9. -/
theorem instructionPrecedesItsTick : Obligations.InstructionPrecedesItsTick := by
  intro x s i hs hpc hdiv hi
  refine ⟨?readDT, ?writeDT, ?writeST⟩ <;> rintro rfl
  case readDT =>
    refine ⟨_, step_of_exec hs hpc hi rfl hs, ?_, tick_DT_wrap hdiv, tick_div_wrap hdiv⟩
    rw [tick_V]
    exact s.writeV_get_self x s.DT
  case writeDT => exact ⟨_, step_of_exec hs hpc hi rfl hs, tick_DT_wrap hdiv, tick_div_wrap hdiv⟩
  case writeST =>
    exact ⟨_, step_of_exec hs hpc hi rfl hs, tick_ST_wrap hdiv, tick_stExpired_wrap hdiv, tick_div_wrap hdiv⟩

/-! ### The timers over many steps (R183) -/

/-- From `s` to `t` the divider has counted `n` steps and both timers have fallen with it, clamped at 0. -/
def TimersRan (n : Nat) (s t : State) : Prop :=
  t.DT.toNat = s.DT.toNat - (s.div.val + n) / 10 ∧ t.ST.toNat = s.ST.toNat - (s.div.val + n) / 10 ∧
    t.div.val = (s.div.val + n) % 10

theorem TimersRan.zero (s : State) : TimersRan 0 s s := by
  have hdiv := s.div.isLt
  refine ⟨?_, ?_, ?_⟩ <;> omega

/-- The ticks of consecutive runs add up. -/
theorem TimersRan.trans {m n : Nat} {s t u : State} (h : TimersRan m s t) (h' : TimersRan n t u) :
    TimersRan (m + n) s u := by
  obtain ⟨hDT, hST, hdiv⟩ := h
  obtain ⟨hDT', hST', hdiv'⟩ := h'
  refine ⟨?_, ?_, ?_⟩ <;> omega

theorem timersRan_tick (s : State) : TimersRan 1 s (tick s) := by
  have hdiv := s.div.isLt
  refine ⟨?_, ?_, tick_div s⟩
  · rw [tick_DT]
    split <;> omega
  · rw [tick_ST]
    split <;> omega

/-- A non-faulting step that writes no timer is one count of the divider (R181). -/
theorem step_timersRan {s t : State} (h : step s = .next t) (ht : t.status = .running)
    (hwrite : ∀ x : Reg, decodeWord (s.mem.readWord s.pc.toNat) ≠ .ok (.ldDtVx x) ∧
      decodeWord (s.mem.readWord s.pc.toNat) ≠ .ok (.ldStVx x)) : TimersRan 1 s t := by
  obtain ⟨-, ⟨e, rfl⟩ | ⟨-, i, u, hi, -, hc, rfl⟩⟩ := step_eq_next h
  · cases ht
  · have hDT : u.DT = s.DT := by
      by_contra hne
      obtain ⟨x, rfl⟩ := hc.DT_changed hne
      exact (hwrite x).1 hi
    have hST : u.ST = s.ST := by
      by_contra hne
      obtain ⟨x, rfl⟩ := hc.ST_changed hne
      exact (hwrite x).2 hi
    have htick := timersRan_tick u
    rwa [TimersRan, hDT, hST, hc.div_eq] at htick

/-- Settles O14, by induction on the number of steps: each adds one count of the divider. -/
theorem timersFallOnceInTenSteps : Obligations.TimersFallOnceInTenSteps := by
  intro n f hsteps
  have hran : ∀ k ≤ n, TimersRan k (f 0) (f k) := by
    intro k
    induction k with
    | zero => exact fun _ => TimersRan.zero (f 0)
    | succ k ih =>
      intro hk
      obtain ⟨h, hrun, hwrite⟩ := hsteps k hk
      exact (ih (Nat.le_of_lt hk)).trans (step_timersRan h hrun hwrite)
  exact hran n le_rfl

end Sys2Proof.Machine
end

section
/-! Reset, the end of a run, and a written timer (spec/70_reset_and_hazards.md). -/

namespace Sys2Proof.Machine

/-! ### A timer from its write on (R200) -/

/-- The tick of the first step counts from the state `u` that its instruction leaves. -/
theorem step_timersRan_of_exec {s t u : State} {i : Instr} (h : step s = .next t) (ht : t.status = .running)
    (hi : decodeWord (s.mem.readWord s.pc.toNat) = .ok i) (hex : exec i s = .next u) : TimersRan 1 u t := by
  obtain ⟨-, ⟨e, rfl⟩ | ⟨-, j, w, hj, hw, -, rfl⟩⟩ := step_eq_next h
  · cases ht
  · obtain rfl := Except.ok.inj (hi.symm.trans hj)
    obtain rfl := Host.Outcome.next.inj (hex.symm.trans hw)
    exact timersRan_tick u

/-- Over a non-faulting run in which no step after the first writes a timer, both timers fall from what the first
instruction leaves in them. -/
theorem timersRan_after_first {f : Nat → State} {u : State} {i : Instr} {m : Nat}
    (hi : decodeWord ((f 0).mem.readWord (f 0).pc.toNat) = .ok i) (hex : exec i (f 0) = .next u)
    (hstep : ∀ k, k < m → step (f k) = .next (f (k + 1)) ∧ (f (k + 1)).status = .running)
    (hwrite : ∀ k, 0 < k → k < m → ∀ y : Reg,
      decodeWord ((f k).mem.readWord (f k).pc.toNat) ≠ .ok (.ldDtVx y) ∧
      decodeWord ((f k).mem.readWord (f k).pc.toNat) ≠ .ok (.ldStVx y))
    {n : Nat} (hn : 0 < n) (hnm : n ≤ m) : TimersRan n u (f n) := by
  obtain ⟨n, rfl⟩ := Nat.exists_eq_add_one.2 hn
  obtain ⟨hfirst, hrun⟩ := hstep 0 (by omega)
  have hrest : TimersRan n (f 1) (f (n + 1)) := by
    refine timersFallOnceInTenSteps n (fun k => f (k + 1)) fun k hk => ?_
    obtain ⟨h, hs⟩ := hstep (k + 1) (by omega)
    exact ⟨h, hs, hwrite (k + 1) k.succ_pos (by omega)⟩
  have h := (step_timersRan_of_exec hfirst hrun hi hex).trans hrest
  rwa [Nat.add_comm 1 n] at h

/-- Whatever the divider's phase, a timer that falls from `v` with its counts is 0 after `10 v` steps and not after
`10 (v - 1)` or fewer. -/
theorem reaches_zero_on_time {v : Nat} (hv : 0 < v) (div : Fin 10) {timer : Nat → Nat}
    (h : ∀ n, 0 < n → n ≤ 10 * v → timer n = v - (div.val + n) / 10) :
    timer (10 * v) = 0 ∧ ∀ n, 0 < n → n ≤ 10 * (v - 1) → timer n ≠ 0 := by
  have hdiv := div.isLt
  refine ⟨?_, fun n hn hnv => ?_⟩
  · rw [h (10 * v) (by omega) le_rfl]
    omega
  · rw [h n hn (by omega)]
    omega

/-- Settles O16: the written timer holds `v` before the first step's own tick, and falls with the divider's counts. -/
theorem writtenTimerReachesZeroOnTime : Obligations.WrittenTimerReachesZeroOnTime := by
  rintro x f v i rfl hv hi hstep hwrite
  refine ⟨?DT, ?ST⟩ <;> rintro rfl
  case DT =>
    refine reaches_zero_on_time (timer := fun n => (f n).DT.toNat) hv (f 0).div fun n hn hnm => ?_
    obtain ⟨hDT, -, -⟩ := timersRan_after_first hi rfl hstep hwrite hn hnm
    exact hDT
  case ST =>
    refine reaches_zero_on_time (timer := fun n => (f n).ST.toNat) hv (f 0).div fun n hn hnm => ?_
    obtain ⟨-, hST, -⟩ := timersRan_after_first hi rfl hstep hwrite hn hnm
    exact hST

/-! ### What `Reset` answers, and the memory it leaves (R190, R193, R33) -/

/-- The font table stored at `FONT_BASE`, no ROM yet. -/
def fontMemory (p : Params) : Memory := Memory.writeBytes [] Config.fontBase p.fontTable.toList

/-- The font table and then the ROM image from `PROGRAM_BASE` up. -/
def bootMemory (p : Params) (rom : List Byte) : Memory := (fontMemory p).writeBytes Config.programBase rom

/-- The state of R33 with that memory. -/
def State.booted (p : Params) (rom : List Byte) : State := { State.reset with mem := bootMemory p rom }

@[simp] theorem State.booted_mem (p : Params) (rom : List Byte) : (State.booted p rom).mem = bootMemory p rom := rfl

@[simp] theorem State.booted_pc_toNat (p : Params) (rom : List Byte) : (State.booted p rom).pc.toNat = 0x200 := rfl

theorem bootWith_ok (p : Params) {rom : List Byte} (h : rom.length ≤ 3584) :
    bootWith p rom = .ok (State.booted p rom) := if_neg (not_lt.2 h)

theorem bootWith_error (p : Params) {rom : List Byte} (h : 3584 < rom.length) :
    bootWith p rom = .error (.romLoadError (.romTooLarge rom.length)) := if_pos h

theorem boot_ok {rom : List Byte} (h : rom.length ≤ 3584) : boot rom = .ok (State.booted Config.record rom) :=
  bootWith_ok Config.record h

theorem boot_error {rom : List Byte} (h : 3584 < rom.length) :
    boot rom = .error (.romLoadError (.romTooLarge rom.length)) := bootWith_error Config.record h

theorem fontMemory_wf (p : Params) : (fontMemory p).wf = true := Memory.writeBytes_wf _ _ Memory.reset_wf

theorem bootMemory_wf (p : Params) (rom : List Byte) : (bootMemory p rom).wf = true :=
  Memory.writeBytes_wf _ _ (fontMemory_wf p)

theorem read_fontMemory (p : Params) (a : Nat) : (fontMemory p).read a = if h : a < 80 then p.fontTable[a] else 0 := by
  have hlen : Config.fontBase + p.fontTable.toList.length ≤ 4096 := by
    rw [Vector.length_toList]
    decide
  rw [fontMemory, Memory.read_writeBytes (m := []) _ _ Memory.reset_wf hlen]
  by_cases h : a < 80 <;> simp [Config.fontBase, Memory.read, Memory.background, h]

section Image

variable (p : Params) {rom : List Byte} (hlen : rom.length ≤ 3584)
include hlen

theorem rom_inMemory : Config.programBase + rom.length ≤ 4096 := Nat.add_le_add_left hlen 0x200

/-- Each byte of the ROM image stands at its place (R190). -/
theorem read_bootMemory_rom {k : Nat} (hk : k < rom.length) : (bootMemory p rom).read (0x200 + k) = rom[k] :=
  Memory.read_writeBytes_inside (fontMemory_wf p) (rom_inMemory hlen) hk

/-- Outside the ROM image stand the font table and zeros (R33, R190). -/
theorem read_bootMemory_outside {a : Nat} (ha : a < 0x200 ∨ 0x200 + rom.length ≤ a) :
    (bootMemory p rom).read a = if h : a < 80 then p.fontTable[a] else 0 :=
  (Memory.read_writeBytes_outside (fontMemory_wf p) (rom_inMemory hlen) ha).trans (read_fontMemory p a)

end Image

/-- The word at the start of the ROM is its first two bytes (R53, R190). -/
theorem readWord_bootMemory (p : Params) {hi lo : Byte} {rest : List Byte} (hlen : (hi :: lo :: rest).length ≤ 3584) :
    (bootMemory p (hi :: lo :: rest)).readWord 0x200 = Word.ofBytes hi lo :=
  congrArg₂ Word.ofBytes (read_bootMemory_rom p hlen (k := 0) (by simp))
    (read_bootMemory_rom p hlen (k := 1) (by simp))

/-- With the font table of record and no ROM every address reads as the reset contents, so nothing is listed (log 7). -/
theorem bootMemory_record_nil : bootMemory Config.record [] = [] := by
  refine Memory.eq_of_read_eq (bootMemory_wf Config.record []) Memory.reset_wf fun a _ => ?_
  exact read_bootMemory_outside Config.record (Nat.zero_le _) (lt_or_ge a 0x200)

/-! ### A block with no state (R193) -/

/-- Without a `Reset` a block that has no state gets none (R193; log 18). -/
theorem Block.acts_none :
    ∀ as : List HostAction, (∀ a ∈ as, ∀ rom, a ≠ .reset rom) → Block.acts none as = none
  | [], _ => rfl
  | .reset rom :: _, h => absurd rfl (h _ List.mem_cons_self rom)
  | .step :: as, h | .setKey _ _ :: as, h | .ackRedraw :: as, h =>
    Block.acts_none as (List.forall_mem_cons.1 h).2

/-! ### The jump to itself (R199, decision D23) -/

/-- The word of R199 is the encoding of a jump, whose target is `pc`. -/
theorem encode_selfJump {pc : Word} (hpc : pc.toNat ≤ 0xFFE) :
    encode (.jp (pc.setWidth 12)) = 0x1000 ||| pc ∧ immAddr (pc.setWidth 12) = pc := by
  have hnnn : (pc.setWidth 12).toNat = pc.toNat := by
    rw [BitVec.toNat_setWidth]
    omega
  refine ⟨BitVec.eq_of_toNat_eq ?_, BitVec.eq_of_toNat_eq ((immAddr_toNat _).trans hnnn)⟩
  have hor : 2 ^ 12 * 1 + pc.toNat = 2 ^ 12 * 1 ||| pc.toNat := Nat.two_pow_add_eq_or_of_lt (by omega) 1
  rw [encode, packNNN_toNat, hnnn, BitVec.toNat_or]
  exact hor

/-- At the end condition the whole effect of a step is its tick. -/
theorem step_of_ended {s : State} (h : s.ended) : step s = .next (tick s) := by
  obtain ⟨hs, hpc, hword⟩ := h
  obtain ⟨hencode, htarget⟩ := encode_selfJump hpc
  have hexec : exec (.jp (s.pc.setWidth 12)) s = .next s := congrArg (fun a => Host.Outcome.next (s.setPc a)) htarget
  refine step_of_exec hs hpc ?_ hexec hs
  rw [hword, ← hencode]
  exact decodeWord_encode rfl

theorem tick_ended {s : State} (h : s.ended) : (tick s).ended := by
  rw [State.ended, tick_status, tick_pc, tick_mem]
  exact h

/-! ### The obligations -/

/-- Settles O49: every field but memory is that of `State.reset`. -/
theorem resetFixesEveryPieceOfState : Obligations.ResetFixesEveryPieceOfState := by
  intro p rom
  refine ⟨fun hlen => ⟨_, bootWith_ok p hlen, fun a ha => ?font, fun a hlo hhi => ?gap,
    fun k hk => read_bootMemory_rom p hlen hk, fun a hlo _ => ?beyond, fun r => ?V, rfl, rfl, rfl, fun k => ?stack, rfl,
    rfl, fun k => ?key, pixel_blank, rfl, rfl, rfl, rfl, bootMemory_wf p rom⟩, bootWith_error p⟩
  case font => exact (read_bootMemory_outside p hlen (.inl (by omega))).trans (dif_pos ha)
  case gap => exact (read_bootMemory_outside p hlen (.inl hhi)).trans (dif_neg (by omega))
  case beyond => exact (read_bootMemory_outside p hlen (.inr hlo)).trans (dif_neg (by omega))
  case V => exact Vector.getElem_replicate r.isLt
  case stack => exact Vector.getElem_replicate k.isLt
  case key => exact BitVec.getLsbD_zero

/-- Settles O50: the word fetched at `0x200` is the instruction's encoding, which decodes to it. -/
theorem firstStepRunsTheRomsFirstInstruction : Obligations.FirstStepRunsTheRomsFirstInstruction := by
  intro i rest hwf hrest
  have hlen : (encodeBytes i ++ rest).length ≤ 3584 := by
    simp only [encodeBytes, List.length_append, List.length_cons, List.length_nil]
    omega
  have hword : (bootMemory Config.record (encodeBytes i ++ rest)).readWord 0x200 = encode i :=
    (readWord_bootMemory Config.record hlen).trans (Word.ofBytes_hiByte_loByte (encode i))
  refine ⟨_, boot_ok hlen, rfl, cycle_exec rfl (by simp) ?_⟩
  rw [State.booted_mem, State.booted_pc_toNat, hword]
  exact decodeWord_encode hwf

/-- Settles O52: a `Reset` gives the block what `boot` answers, whatever it held before. -/
theorem failedResetLeavesNoState : Obligations.FailedResetLeavesNoState := by
  intro b rom as
  refine ⟨fun hlen => ?_, fun hlen => ?_⟩
  · exact ⟨_, congrArg Except.toOption (boot_ok hlen), boot_ok hlen⟩
  · refine ⟨boot_error hlen, fun has => ?_⟩
    have hact : Block.act b (.reset rom) = none := congrArg Except.toOption (boot_error hlen)
    rw [Block.acts, List.foldl_cons, hact]
    exact Block.acts_none as has

/-- Settles O53: the tick touches neither the status, nor `pc`, nor memory. -/
theorem selfJumpOnlyRunsTheTimers : Obligations.SelfJumpOnlyRunsTheTimers :=
  fun s h => ⟨tick s, step_of_ended h, tick_ended h, tick_frame s⟩

/-- Settles O51: with nothing loaded at `0x200` the conditions name the exception of the word `0x0000`. -/
theorem emptyRomFaultsAtOnce : Obligations.EmptyRomFaultsAtOnce := by
  refine ⟨?_, step_of_stepFault rfl (by decide)⟩
  rw [boot_ok (Nat.zero_le _), State.booted, bootMemory_record_nil]
  rfl

end Sys2Proof.Machine
end
